-- ==== Sys2Proof/Word.lean ====
section
/-! DEFINITION. The word types of the core (00_scope.md rules R10 to R12) and the text type of its records. -/

namespace Sys2Proof

/-- One byte: a memory cell, or one byte of a register cell (R30, R80). -/
abbrev Byte := BitVec 8

/-- The value of one 32-bit register cell (R10, R30). -/
abbrev Word := BitVec 32

/-- A signed 32-bit integer of the instruction record, `Literal(i32)` or an `offset` (R111), read with `BitVec.toInt`. -/
abbrev I32 := BitVec 32

/-- Text of a record: a mnemonic, a register spelling or a label name (R110, R111), compared exactly (R34, R118, R131). -/
abbrev Text := List Char

end Sys2Proof
end

