-- ==== Sys2Proof/Config.lean ====
section
/-! DEFINITION. The parameters of the core (00_scope.md rule R10) and its one free value (R16, R174). -/

namespace Sys2Proof

/-- `LABEL_MISS_POLICY` (R10, R327, R368, R369). -/
inductive LabelMissPolicy
  | halt
  | skip
deriving DecidableEq, Repr

/-- The values of `ADC_SBB_ALIAS` (R210) and of `PUSH_POP_ESP` (R363). -/
inductive AliasPolicy
  | either
  | snapshot
  | inplace
deriving DecidableEq, Repr

/-- `STRING_STEP` (R340). -/
inductive StringStep
  | byte
  | width
deriving DecidableEq, Repr

/-- `CLEAR_SCOPE` (R171). -/
inductive ClearScope
  | all16
  | status6
deriving DecidableEq, Repr

/-- The four cells whose low byte the source names no spelling for (R33). -/
inductive PointerCell
  | esp
  | ebp
  | esi
  | edi
deriving DecidableEq, Repr

/-- The open parameters of R10 but for `INIT_GPR` and `INIT_MEM`, which are the initial values of the state's own fields. -/
structure Config where
  /-- `MEM_SIZE`, in bytes (R80). -/
  memSize : Nat
  /-- `LABEL_MISS_POLICY` (D11). -/
  labelMissPolicy : LabelMissPolicy
  /-- `EXIT_MNEMONICS` (R130). -/
  exitMnemonics : List Text
  /-- `UNIMPLEMENTED_SET` (R124). -/
  unimplementedSet : List Text
  /-- `ADC_SBB_ALIAS` (R210). -/
  adcSbbAlias : AliasPolicy
  /-- `SHIFT_COUNT_MASK` (R280): counts are bytes, so only its low byte matters. -/
  shiftCountMask : Byte
  /-- `STRING_STEP` (R340). -/
  stringStep : StringStep
  /-- `PUSH_POP_ESP` (R363). -/
  pushPopEsp : AliasPolicy
  /-- `CLEAR_BEFORE_MOV` (R171). -/
  clearBeforeMov : Bool
  /-- `CLEAR_SCOPE` (R171). -/
  clearScope : ClearScope
  /-- `EXTRA_LOW_BYTE_NAMES` (R33): spellings bound to the low bytes of `esp`, `ebp`, `esi`, `edi`. -/
  extraLowByteNames : List (Text × PointerCell)
deriving DecidableEq, Repr

/-- The defaults of R10. `MEM_SIZE` has no default: 256 is the value of the spec's test configuration D56.
DESIGN CHOICE, unsafe: log 2. -/
def Config.default : Config where
  memSize := 256
  labelMissPolicy := .halt
  exitMnemonics := [['h', 'l', 't']]
  unimplementedSet := []
  adcSbbAlias := .either
  shiftCountMask := 0x1F
  stringStep := .byte
  pushPopEsp := .either
  clearBeforeMov := true
  clearScope := .all16
  extraLowByteNames := []

/-- The draws of the spec's `any` and `choose` (R16, R174): draw number `n` of a run is `freeBit n`, about which nothing is
known. `State.draws` counts them (log 5). -/
opaque Config.freeBit : Nat → Bool

end Sys2Proof
end

