-- ==== Sys2Proof/Syntax.lean ====
section
/-! DEFINITION. The instruction record the parser hands to the core (30_encoding.md), the decoded instruction with one
constructor per row of opcode_table.json, and the error kinds (60_exceptions.md rule R400). -/

namespace Sys2Proof

/-- An operation width: 8, 16 or 32 bits (R10, R120), with size suffix `b`, `w` or `l` (R119). -/
inductive Width
  | w8
  | w16
  | w32
deriving DecidableEq, Repr

/-- The width in bits. -/
abbrev Width.bits : Width → Nat
  | .w8 => 8
  | .w16 => 16
  | .w32 => 32

/-- The width in bytes, `n` of `MemRead` and `MemWrite` (R88). -/
abbrev Width.bytes : Width → Nat
  | .w8 => 1
  | .w16 => 2
  | .w32 => 4

/-- The eight general register cells, in index order (R30). -/
inductive Cell
  | eax
  | ecx
  | edx
  | ebx
  | esp
  | ebp
  | esi
  | edi
deriving DecidableEq, Repr

/-- The four cells whose second byte is a view of its own (R32). -/
inductive HighCell
  | a
  | c
  | d
  | b
deriving DecidableEq, Repr

/-- A register view: a cell and a byte range of it (R32, R33). -/
inductive Reg
  /-- Bytes [0..4): `eax` to `edi`. -/
  | r32 (c : Cell)
  /-- Bytes [0..2): `ax` to `di`. -/
  | r16 (c : Cell)
  /-- Bytes [0..1): `al`, `cl`, `dl`, `bl`, and the four that only `EXTRA_LOW_BYTE_NAMES` can name (R33). -/
  | lo8 (c : Cell)
  /-- Bytes [1..2): `ah`, `ch`, `dh`, `bh`. -/
  | hi8 (h : HighCell)
deriving DecidableEq, Repr

/-- The width of a view (R32). -/
abbrev Reg.width : Reg → Width
  | .r32 _ => .w32
  | .r16 _ => .w16
  | .lo8 _ => .w8
  | .hi8 _ => .w8

/-- The scale of a memory operand: 1, 2, 4 or 8 (R86). -/
inductive Scale
  | x1
  | x2
  | x4
  | x8
deriving DecidableEq, Repr

/-- The base of an admitted memory operand: absent, a literal, or a 32-bit register (R86, R87). -/
inductive Base
  | absent
  | literal (k : I32)
  | register (c : Cell)
deriving DecidableEq, Repr

/-- An admitted memory operand `Memory(base, offset, scale, index)` (R86, R87). -/
structure MemRef where
  base : Base
  offset : I32
  scale : Scale
  index : Option Cell
deriving DecidableEq, Repr

/-- An admitted data source: a Literal, a Register or a Memory operand (R122). -/
inductive Src
  | imm (k : I32)
  | reg (r : Reg)
  | mem (m : MemRef)
deriving DecidableEq, Repr

/-- An admitted destination: a Register or a Memory operand (R122). -/
inductive Dst
  | reg (r : Reg)
  | mem (m : MemRef)
deriving DecidableEq, Repr

/-- The count of a shift or rotate (R280): the F1 form's 1, a Literal 0..255, or the register `cl`. -/
inductive Count
  | one
  | imm (k : Byte)
  | cl
deriving DecidableEq, Repr

/-- The decoded instruction: one constructor per row of opcode_table.json (R118, R129), with its admitted operands. `w` is the
operation width (R120); an instruction whose rule fixes the width carries none. -/
inductive Instr
  /-- `add`: R202. -/
  | add (w : Width) (src : Src) (dst : Dst)
  /-- `adc`: R203. -/
  | adc (w : Width) (src : Src) (dst : Dst)
  /-- `sub`: R204. -/
  | sub (w : Width) (src : Src) (dst : Dst)
  /-- `sbb`: R205. -/
  | sbb (w : Width) (src : Src) (dst : Dst)
  /-- `cmp`: R206. -/
  | cmp (w : Width) (src : Src) (dst : Dst)
  /-- `inc`: R207. -/
  | inc (w : Width) (dst : Dst)
  /-- `dec`: R208. -/
  | dec (w : Width) (dst : Dst)
  /-- `neg`: R209. -/
  | neg (w : Width) (dst : Dst)
  /-- `and`: R241. -/
  | and (w : Width) (src : Src) (dst : Dst)
  /-- `or`: R242. -/
  | or (w : Width) (src : Src) (dst : Dst)
  /-- `xor`: R243. -/
  | xor (w : Width) (src : Src) (dst : Dst)
  /-- `test`: R244. -/
  | test (w : Width) (src : Src) (dst : Dst)
  /-- `not`: R245. -/
  | not (w : Width) (dst : Dst)
  /-- `mul`: R260. -/
  | mul (src : Src)
  /-- `imul`: R261 (one operand), R262 (two operands). -/
  | imul (src : Src) (dst : Option Cell)
  /-- `div`: R263. -/
  | div (src : Src)
  /-- `idiv`: R264. -/
  | idiv (src : Src)
  /-- `rol`: R281. -/
  | rol (w : Width) (count : Count) (dst : Dst)
  /-- `ror`: R282. -/
  | ror (w : Width) (count : Count) (dst : Dst)
  /-- `rcl`: R283. -/
  | rcl (w : Width) (count : Count) (dst : Dst)
  /-- `rcr`: R284. -/
  | rcr (w : Width) (count : Count) (dst : Dst)
  /-- `shl`: R285. -/
  | shl (w : Width) (count : Count) (dst : Dst)
  /-- `sal`: R285. -/
  | sal (w : Width) (count : Count) (dst : Dst)
  /-- `shr`: R286. -/
  | shr (w : Width) (count : Count) (dst : Dst)
  /-- `sar`: R287. -/
  | sar (w : Width) (count : Count) (dst : Dst)
  /-- `jo`: R327. -/
  | jo (target : Text)
  /-- `jno`: R327. -/
  | jno (target : Text)
  /-- `jb`: R327. -/
  | jb (target : Text)
  /-- `jc`: R327. -/
  | jc (target : Text)
  /-- `jnae`: R327. -/
  | jnae (target : Text)
  /-- `jae`: R327. -/
  | jae (target : Text)
  /-- `jnb`: R327. -/
  | jnb (target : Text)
  /-- `jnc`: R327. -/
  | jnc (target : Text)
  /-- `je`: R327. -/
  | je (target : Text)
  /-- `jz`: R327. -/
  | jz (target : Text)
  /-- `jne`: R327. -/
  | jne (target : Text)
  /-- `jnz`: R327. -/
  | jnz (target : Text)
  /-- `jbe`: R327. -/
  | jbe (target : Text)
  /-- `jna`: R327. -/
  | jna (target : Text)
  /-- `ja`: R327. -/
  | ja (target : Text)
  /-- `jnbe`: R327. -/
  | jnbe (target : Text)
  /-- `js`: R327. -/
  | js (target : Text)
  /-- `jns`: R327. -/
  | jns (target : Text)
  /-- `jp`: R327. -/
  | jp (target : Text)
  /-- `jpe`: R327. -/
  | jpe (target : Text)
  /-- `jnp`: R327. -/
  | jnp (target : Text)
  /-- `jpo`: R327. -/
  | jpo (target : Text)
  /-- `jl`: R327. -/
  | jl (target : Text)
  /-- `jnge`: R327. -/
  | jnge (target : Text)
  /-- `jge`: R327. -/
  | jge (target : Text)
  /-- `jnl`: R327. -/
  | jnl (target : Text)
  /-- `jle`: R327. -/
  | jle (target : Text)
  /-- `jng`: R327. -/
  | jng (target : Text)
  /-- `jg`: R327. -/
  | jg (target : Text)
  /-- `jnle`: R327. -/
  | jnle (target : Text)
  /-- `cmovo`: R328. -/
  | cmovo (w : Width) (src : Src) (dst : Dst)
  /-- `cmovno`: R328. -/
  | cmovno (w : Width) (src : Src) (dst : Dst)
  /-- `cmovb`: R328. -/
  | cmovb (w : Width) (src : Src) (dst : Dst)
  /-- `cmovc`: R328. -/
  | cmovc (w : Width) (src : Src) (dst : Dst)
  /-- `cmovnae`: R328. -/
  | cmovnae (w : Width) (src : Src) (dst : Dst)
  /-- `cmovae`: R328. -/
  | cmovae (w : Width) (src : Src) (dst : Dst)
  /-- `cmovnb`: R328. -/
  | cmovnb (w : Width) (src : Src) (dst : Dst)
  /-- `cmovnc`: R328. -/
  | cmovnc (w : Width) (src : Src) (dst : Dst)
  /-- `cmove`: R328. -/
  | cmove (w : Width) (src : Src) (dst : Dst)
  /-- `cmovz`: R328. -/
  | cmovz (w : Width) (src : Src) (dst : Dst)
  /-- `cmovne`: R328. -/
  | cmovne (w : Width) (src : Src) (dst : Dst)
  /-- `cmovnz`: R328. -/
  | cmovnz (w : Width) (src : Src) (dst : Dst)
  /-- `cmovbe`: R328. -/
  | cmovbe (w : Width) (src : Src) (dst : Dst)
  /-- `cmovna`: R328. -/
  | cmovna (w : Width) (src : Src) (dst : Dst)
  /-- `cmova`: R328. -/
  | cmova (w : Width) (src : Src) (dst : Dst)
  /-- `cmovnbe`: R328. -/
  | cmovnbe (w : Width) (src : Src) (dst : Dst)
  /-- `cmovs`: R328. -/
  | cmovs (w : Width) (src : Src) (dst : Dst)
  /-- `cmovns`: R328. -/
  | cmovns (w : Width) (src : Src) (dst : Dst)
  /-- `cmovp`: R328. -/
  | cmovp (w : Width) (src : Src) (dst : Dst)
  /-- `cmovpe`: R328. -/
  | cmovpe (w : Width) (src : Src) (dst : Dst)
  /-- `cmovnp`: R328. -/
  | cmovnp (w : Width) (src : Src) (dst : Dst)
  /-- `cmovpo`: R328. -/
  | cmovpo (w : Width) (src : Src) (dst : Dst)
  /-- `cmovl`: R328. -/
  | cmovl (w : Width) (src : Src) (dst : Dst)
  /-- `cmovnge`: R328. -/
  | cmovnge (w : Width) (src : Src) (dst : Dst)
  /-- `cmovge`: R328. -/
  | cmovge (w : Width) (src : Src) (dst : Dst)
  /-- `cmovnl`: R328. -/
  | cmovnl (w : Width) (src : Src) (dst : Dst)
  /-- `cmovle`: R328. -/
  | cmovle (w : Width) (src : Src) (dst : Dst)
  /-- `cmovng`: R328. -/
  | cmovng (w : Width) (src : Src) (dst : Dst)
  /-- `cmovg`: R328. -/
  | cmovg (w : Width) (src : Src) (dst : Dst)
  /-- `cmovnle`: R328. -/
  | cmovnle (w : Width) (src : Src) (dst : Dst)
  /-- `seto`: R329. -/
  | seto (dst : Dst)
  /-- `setno`: R329. -/
  | setno (dst : Dst)
  /-- `setb`: R329. -/
  | setb (dst : Dst)
  /-- `setc`: R329. -/
  | setc (dst : Dst)
  /-- `setnae`: R329. -/
  | setnae (dst : Dst)
  /-- `setae`: R329. -/
  | setae (dst : Dst)
  /-- `setnb`: R329. -/
  | setnb (dst : Dst)
  /-- `setnc`: R329. -/
  | setnc (dst : Dst)
  /-- `sete`: R329. -/
  | sete (dst : Dst)
  /-- `setz`: R329. -/
  | setz (dst : Dst)
  /-- `setne`: R329. -/
  | setne (dst : Dst)
  /-- `setnz`: R329. -/
  | setnz (dst : Dst)
  /-- `setbe`: R329. -/
  | setbe (dst : Dst)
  /-- `setna`: R329. -/
  | setna (dst : Dst)
  /-- `seta`: R329. -/
  | seta (dst : Dst)
  /-- `setnbe`: R329. -/
  | setnbe (dst : Dst)
  /-- `sets`: R329. -/
  | sets (dst : Dst)
  /-- `setns`: R329. -/
  | setns (dst : Dst)
  /-- `setp`: R329. -/
  | setp (dst : Dst)
  /-- `setpe`: R329. -/
  | setpe (dst : Dst)
  /-- `setnp`: R329. -/
  | setnp (dst : Dst)
  /-- `setpo`: R329. -/
  | setpo (dst : Dst)
  /-- `setl`: R329. -/
  | setl (dst : Dst)
  /-- `setnge`: R329. -/
  | setnge (dst : Dst)
  /-- `setge`: R329. -/
  | setge (dst : Dst)
  /-- `setnl`: R329. -/
  | setnl (dst : Dst)
  /-- `setle`: R329. -/
  | setle (dst : Dst)
  /-- `setng`: R329. -/
  | setng (dst : Dst)
  /-- `setg`: R329. -/
  | setg (dst : Dst)
  /-- `setnle`: R329. -/
  | setnle (dst : Dst)
  /-- `cmpsb`: R341. -/
  | cmpsb
  /-- `cmpsw`: R341. -/
  | cmpsw
  /-- `cmpsd`: R341. -/
  | cmpsd
  /-- `movsb`: R342. -/
  | movsb
  /-- `movsw`: R342. -/
  | movsw
  /-- `movsd`: R342. -/
  | movsd
  /-- `scasb`: R343. -/
  | scasb
  /-- `scasw`: R343. -/
  | scasw
  /-- `scasd`: R343. -/
  | scasd
  /-- `stosb`: R344. -/
  | stosb
  /-- `stosw`: R344. -/
  | stosw
  /-- `stosd`: R344. -/
  | stosd
  /-- `lodsb`: R345. -/
  | lodsb
  /-- `lodsw`: R345. -/
  | lodsw
  /-- `lodsd`: R345. -/
  | lodsd
  /-- `mov`: R360. -/
  | mov (w : Width) (src : Src) (dst : Dst)
  /-- `push`: R361. -/
  | push (src : Src)
  /-- `pop`: R362. -/
  | pop (dst : Dst)
  /-- `pushf`: R364. -/
  | pushf
  /-- `popf`: R365. -/
  | popf
  /-- `lahf`: R366. -/
  | lahf
  /-- `sahf`: R367. -/
  | sahf
  /-- `jmp`: R368. -/
  | jmp (target : Text)
  /-- `call`: R369. -/
  | call (target : Text)
  /-- `ret`: R370. -/
  | ret (size : Option (BitVec 16))
  /-- `enter`: R371. -/
  | enter (size : BitVec 16) (level : Option Byte)
  /-- `leave`: R372. -/
  | leave
  /-- `nop`: R373. -/
  | nop
  /-- `hlt`: R374. -/
  | hlt
  /-- `pushfl`: R364. -/
  | pushfl
  /-- `pushfd`: R364. -/
  | pushfd
  /-- `popfl`: R365. -/
  | popfl
  /-- `popfd`: R365. -/
  | popfd
  /-- `cmpsl`: R341. -/
  | cmpsl
  /-- `movsl`: R342. -/
  | movsl
  /-- `scasl`: R343. -/
  | scasl
  /-- `stosl`: R344. -/
  | stosl
  /-- `lodsl`: R345. -/
  | lodsl
deriving DecidableEq, Repr

/-- An operand of the record, as the parser yields it (R111). `base` is any operand; `memoryNoBase` is the form whose base is
absent. -/
inductive Operand
  | literal (k : I32)
  | register (name : Text)
  | memory (base : Operand) (offset : I32) (scale : Nat) (index : Option Text)
  | memoryNoBase (offset : I32) (scale : Nat) (index : Option Text)
  | labelRef (name : Text)
deriving DecidableEq, Repr

/-- The instruction record `Instr(mnemonic, operands)` (R110, R112), this hardware's instruction word. -/
structure Record where
  mnemonic : Text
  operands : List Operand
deriving DecidableEq, Repr

/-- A line of the stream (R112, R161). -/
inductive Line
  | instr (r : Record)
  | directive
  | nop
  | malformed
deriving DecidableEq, Repr

/-- A line of the program the host supplies (R112, R414). A label line has a name and, perhaps, a line after it. -/
inductive ProgLine
  | label (name : Text) (rest : Option Line)
  | plain (l : Line)
deriving DecidableEq, Repr

/-- The error kinds and the information each records (R400). -/
inductive ErrorKind
  | unknownRegister (name : Text)
  | unknownMnemonic (name : Text)
  | unimplementedInstruction (name : Text)
  | invalidOperand
  | divisionByZero
  | outOfBoundsMemoryAccess (addr : Int) (len : Nat)
  | invalidLabel (name : Text)
  | malformedInstructionText
  | quotientOverflow
deriving DecidableEq, Repr

/-- The codes of R400. -/
def ErrorKind.code : ErrorKind → Nat
  | .unknownRegister _ => 1
  | .unknownMnemonic _ => 2
  | .unimplementedInstruction _ => 3
  | .invalidOperand => 4
  | .divisionByZero => 5
  | .outOfBoundsMemoryAccess _ _ => 6
  | .invalidLabel _ => 7
  | .malformedInstructionText => 8
  | .quotientOverflow => 9

end Sys2Proof
end

