-- ==== Sys2Proof/WellFormed.lean ====
section
/-! DEFINITION. What an admitted instruction satisfies beyond its types: register widths, immediate ranges, at most one Memory
operand, and spellings the configuration has (30_encoding.md rules R117 to R122, 10_state.md rules R32, R33). -/

namespace Sys2Proof

/-- A Literal is admitted at width `w` when `-2^(w-1) ≤ k ≤ 2^w - 1` (R117). -/
def immFits (w : Width) (k : I32) : Bool :=
  decide (-(2 ^ (w.bits - 1) : Int) ≤ k.toInt ∧ k.toInt ≤ 2 ^ w.bits - 1)

/-- A data source fits width `w`: a register has that width (R121), a Literal is in range (R117). -/
def Src.fits (w : Width) : Src → Bool
  | .imm k => immFits w k
  | .reg r => decide (r.width = w)
  | .mem _ => true

/-- A destination fits width `w` (R121). -/
def Dst.fits (w : Width) : Dst → Bool
  | .reg r => decide (r.width = w)
  | .mem _ => true

/-- The width a source gives the operation, if it is a Register (R120). -/
def Src.width? : Src → Option Width
  | .reg r => some r.width
  | .imm _ => none
  | .mem _ => none

/-- The width a destination gives the operation, if it is a Register (R120). -/
def Dst.width? : Dst → Option Width
  | .reg r => some r.width
  | .mem _ => none

/-- The operation width: the suffix, else the destination register's, else the source register's, else 32 (R120). -/
def opWidth (suffix dst src : Option Width) : Width :=
  ((suffix.or dst).or src).getD .w32

/-- Both operands of an F2 instruction are Memory operands, which no instruction admits (R122). -/
def bothMem : Src → Dst → Bool
  | .mem _, .mem _ => true
  | .mem _, .reg _ => false
  | .imm _, _ => false
  | .reg _, _ => false

/-- The cell a `PointerCell` names (R33). -/
def PointerCell.cell : PointerCell → Cell
  | .esp => .esp
  | .ebp => .ebp
  | .esi => .esi
  | .edi => .edi

/-- A view some spelling names: all of R32, and the low bytes of `esp`, `ebp`, `esi`, `edi` when the configuration binds one (R33). -/
def Reg.spelled (cfg : Config) : Reg → Bool
  | .lo8 .esp => cfg.extraLowByteNames.any (·.2.cell = .esp)
  | .lo8 .ebp => cfg.extraLowByteNames.any (·.2.cell = .ebp)
  | .lo8 .esi => cfg.extraLowByteNames.any (·.2.cell = .esi)
  | .lo8 .edi => cfg.extraLowByteNames.any (·.2.cell = .edi)
  | .lo8 .eax | .lo8 .ecx | .lo8 .edx | .lo8 .ebx => true
  | .r32 _ | .r16 _ | .hi8 _ => true

/-- Every register of a source has a spelling. -/
def Src.spelled (cfg : Config) : Src → Bool
  | .reg r => r.spelled cfg
  | .imm _ => true
  | .mem _ => true

/-- Every register of a destination has a spelling. -/
def Dst.spelled (cfg : Config) : Dst → Bool
  | .reg r => r.spelled cfg
  | .mem _ => true

/-- The generic two-operand form (R129). -/
def wfBinary (cfg : Config) (w : Width) (src : Src) (dst : Dst) : Bool :=
  src.fits w && dst.fits w && !bothMem src dst && src.spelled cfg && dst.spelled cfg

/-- The generic one-operand form with a destination (R129). -/
def wfUnary (cfg : Config) (w : Width) (dst : Dst) : Bool :=
  dst.fits w && dst.spelled cfg

/-- The one-operand form with a 32-bit source (R121, R129). -/
def wfSource (cfg : Config) (src : Src) : Bool :=
  src.fits .w32 && src.spelled cfg

/-- `cmov<cc>` takes no suffix, so its width is the one its operands give (R119, R120). -/
def wfCmov (cfg : Config) (w : Width) (src : Src) (dst : Dst) : Bool :=
  wfBinary cfg w src dst && decide (w = opWidth none dst.width? src.width?)

/-- An admitted instruction: what stages 2 to 4 of R165 leave. -/
def Instr.wellFormed (cfg : Config) : Instr → Bool
  | .add w src dst | .adc w src dst | .sub w src dst | .sbb w src dst | .cmp w src dst | .and w src dst | .or w src dst
  | .xor w src dst | .test w src dst | .mov w src dst => wfBinary cfg w src dst
  | .inc w dst | .dec w dst | .neg w dst | .not w dst => wfUnary cfg w dst
  | .mul src | .div src | .idiv src | .push src => wfSource cfg src
  | .imul src _ => wfSource cfg src
  | .pop dst => wfUnary cfg .w32 dst
  | .rol w _ dst | .ror w _ dst | .rcl w _ dst | .rcr w _ dst | .shl w _ dst | .sal w _ dst | .shr w _ dst
  | .sar w _ dst => wfUnary cfg w dst
  | .cmovo w src dst | .cmovno w src dst | .cmovb w src dst | .cmovc w src dst | .cmovnae w src dst | .cmovae w src dst
  | .cmovnb w src dst | .cmovnc w src dst | .cmove w src dst | .cmovz w src dst | .cmovne w src dst | .cmovnz w src dst
  | .cmovbe w src dst | .cmovna w src dst | .cmova w src dst | .cmovnbe w src dst | .cmovs w src dst | .cmovns w src dst
  | .cmovp w src dst | .cmovpe w src dst | .cmovnp w src dst | .cmovpo w src dst | .cmovl w src dst | .cmovnge w src dst
  | .cmovge w src dst | .cmovnl w src dst | .cmovle w src dst | .cmovng w src dst | .cmovg w src dst
  | .cmovnle w src dst =>
    wfCmov cfg w src dst
  | .seto dst | .setno dst | .setb dst | .setc dst | .setnae dst | .setae dst | .setnb dst | .setnc dst | .sete dst
  | .setz dst | .setne dst | .setnz dst | .setbe dst | .setna dst | .seta dst | .setnbe dst | .sets dst | .setns dst
  | .setp dst | .setpe dst | .setnp dst | .setpo dst | .setl dst | .setnge dst | .setge dst | .setnl dst | .setle dst
  | .setng dst | .setg dst | .setnle dst =>
    wfUnary cfg .w8 dst
  | .jo _ | .jno _ | .jb _ | .jc _ | .jnae _ | .jae _ | .jnb _ | .jnc _ | .je _ | .jz _ | .jne _ | .jnz _ | .jbe _
  | .jna _ | .ja _ | .jnbe _ | .js _ | .jns _ | .jp _ | .jpe _ | .jnp _ | .jpo _ | .jl _ | .jnge _ | .jge _ | .jnl _
  | .jle _ | .jng _ | .jg _ | .jnle _ | .jmp _ | .call _ => true
  | .ret _ => true
  | .enter _ _ => true
  | .cmpsb | .cmpsw | .cmpsd | .movsb | .movsw | .movsd | .scasb | .scasw | .scasd | .stosb | .stosw | .stosd | .lodsb
  | .lodsw | .lodsd | .pushf | .popf | .lahf | .sahf | .leave | .nop | .hlt | .pushfl | .pushfd | .popfl | .popfd
  | .cmpsl | .movsl | .scasl | .stosl | .lodsl => true

end Sys2Proof
end

