-- ==== Sys2Proof/Decode.lean ====
section
/-! DEFINITION. Decoding a record into an admitted instruction, stages 1 to 4 of 40_execution.md rule R165 over the opcode map of
30_encoding.md rule R129, and the encoder that writes an admitted instruction as a record. Total: what it rejects, it rejects by
the error kind of 60_exceptions.md rule R400. -/

namespace Sys2Proof

/-! ## Spellings -/

/-- The entry of a table under an exact spelling (R34, R118, R131); the first one counts. -/
def assoc {α : Type} (k : Text) : List (Text × α) → Option α
  | [] => none
  | (k', v) :: rest => if k = k' then some v else assoc k rest

/-- The aliasing table of R32. -/
def regNames : List (Text × Reg) :=
  [(['e', 'a', 'x'], .r32 .eax),
   (['e', 'c', 'x'], .r32 .ecx),
   (['e', 'd', 'x'], .r32 .edx),
   (['e', 'b', 'x'], .r32 .ebx),
   (['e', 's', 'p'], .r32 .esp),
   (['e', 'b', 'p'], .r32 .ebp),
   (['e', 's', 'i'], .r32 .esi),
   (['e', 'd', 'i'], .r32 .edi),
   (['a', 'x'], .r16 .eax),
   (['c', 'x'], .r16 .ecx),
   (['d', 'x'], .r16 .edx),
   (['b', 'x'], .r16 .ebx),
   (['s', 'p'], .r16 .esp),
   (['b', 'p'], .r16 .ebp),
   (['s', 'i'], .r16 .esi),
   (['d', 'i'], .r16 .edi),
   (['a', 'l'], .lo8 .eax),
   (['c', 'l'], .lo8 .ecx),
   (['d', 'l'], .lo8 .edx),
   (['b', 'l'], .lo8 .ebx),
   (['a', 'h'], .hi8 .a),
   (['c', 'h'], .hi8 .c),
   (['d', 'h'], .hi8 .d),
   (['b', 'h'], .hi8 .b)]

/-- The view a spelling names: R32, then the names bound by `EXTRA_LOW_BYTE_NAMES` (R33); none is `UnknownRegister` (R34). -/
def lookupReg (cfg : Config) (n : Text) : Option Reg :=
  match assoc n regNames with
  | some r => some r
  | none => (assoc n cfg.extraLowByteNames).map fun c => .lo8 c.cell

/-! ## The opcode map -/

/-- A row of the opcode map by the formats and operand shapes it admits (R129), with the constructor it builds. -/
inductive Row
  /-- F2: source I/R/M, destination R/M, not both M; suffix b, w, l. -/
  | alu (mk : Width → Src → Dst → Instr)
  /-- F1: destination R/M; suffix b, w, l. -/
  | unary (mk : Width → Dst → Instr)
  /-- F1: source I/R/M at width 32; suffix l. -/
  | source (mk : Src → Instr)
  /-- F1: source I/R/M; F2: source I/R/M, destination R; width 32; suffix l. -/
  | imul
  /-- F1: destination R/M at width 32; suffix l. -/
  | pop
  /-- F1: destination R/M; F2: count I or `cl`, destination R/M; suffix b, w, l. -/
  | shift (mk : Width → Count → Dst → Instr)
  /-- F1: target L. -/
  | jump (mk : Text → Instr)
  /-- F2: source I/R/M, destination R/M, not both M; no suffix. -/
  | cmov (mk : Width → Src → Dst → Instr)
  /-- F1: destination an 8-bit R or M. -/
  | setcc (mk : Dst → Instr)
  /-- F0; F1: size I. -/
  | ret
  /-- F1: size I; F2: size I, level I. -/
  | enter
  /-- F0. -/
  | plain (i : Instr)

/-- The rows that take a size suffix (R119). -/
def Row.suffixable : Row → Bool
  | .alu _ | .unary _ | .source _ | .imul | .pop | .shift _ => true
  | .jump _ | .cmov _ | .setcc _ | .ret | .enter | .plain _ => false

/-- Arithmetic and logic (41_arithmetic.md, 42_logic.md). -/
def arithmeticRows : List (Text × Row) :=
  [(['a', 'd', 'd'], .alu .add),
   (['a', 'd', 'c'], .alu .adc),
   (['s', 'u', 'b'], .alu .sub),
   (['s', 'b', 'b'], .alu .sbb),
   (['c', 'm', 'p'], .alu .cmp),
   (['i', 'n', 'c'], .unary .inc),
   (['d', 'e', 'c'], .unary .dec),
   (['n', 'e', 'g'], .unary .neg),
   (['a', 'n', 'd'], .alu .and),
   (['o', 'r'], .alu .or),
   (['x', 'o', 'r'], .alu .xor),
   (['t', 'e', 's', 't'], .alu .test),
   (['n', 'o', 't'], .unary .not)]

/-- Multiply, divide, shift and rotate (43_multiply_divide.md, 44_shift_rotate.md). -/
def multiplyShiftRows : List (Text × Row) :=
  [(['m', 'u', 'l'], .source .mul),
   (['i', 'm', 'u', 'l'], .imul),
   (['d', 'i', 'v'], .source .div),
   (['i', 'd', 'i', 'v'], .source .idiv),
   (['r', 'o', 'l'], .shift .rol),
   (['r', 'o', 'r'], .shift .ror),
   (['r', 'c', 'l'], .shift .rcl),
   (['r', 'c', 'r'], .shift .rcr),
   (['s', 'h', 'l'], .shift .shl),
   (['s', 'a', 'l'], .shift .sal),
   (['s', 'h', 'r'], .shift .shr),
   (['s', 'a', 'r'], .shift .sar)]

/-- Conditional jumps (R125, R327). -/
def jumpRows : List (Text × Row) :=
  [(['j', 'o'], .jump .jo),
   (['j', 'n', 'o'], .jump .jno),
   (['j', 'b'], .jump .jb),
   (['j', 'c'], .jump .jc),
   (['j', 'n', 'a', 'e'], .jump .jnae),
   (['j', 'a', 'e'], .jump .jae),
   (['j', 'n', 'b'], .jump .jnb),
   (['j', 'n', 'c'], .jump .jnc),
   (['j', 'e'], .jump .je),
   (['j', 'z'], .jump .jz),
   (['j', 'n', 'e'], .jump .jne),
   (['j', 'n', 'z'], .jump .jnz),
   (['j', 'b', 'e'], .jump .jbe),
   (['j', 'n', 'a'], .jump .jna),
   (['j', 'a'], .jump .ja),
   (['j', 'n', 'b', 'e'], .jump .jnbe),
   (['j', 's'], .jump .js),
   (['j', 'n', 's'], .jump .jns),
   (['j', 'p'], .jump .jp),
   (['j', 'p', 'e'], .jump .jpe),
   (['j', 'n', 'p'], .jump .jnp),
   (['j', 'p', 'o'], .jump .jpo),
   (['j', 'l'], .jump .jl),
   (['j', 'n', 'g', 'e'], .jump .jnge),
   (['j', 'g', 'e'], .jump .jge),
   (['j', 'n', 'l'], .jump .jnl),
   (['j', 'l', 'e'], .jump .jle),
   (['j', 'n', 'g'], .jump .jng),
   (['j', 'g'], .jump .jg),
   (['j', 'n', 'l', 'e'], .jump .jnle)]

/-- Conditional moves (R125, R328). -/
def cmovRows : List (Text × Row) :=
  [(['c', 'm', 'o', 'v', 'o'], .cmov .cmovo),
   (['c', 'm', 'o', 'v', 'n', 'o'], .cmov .cmovno),
   (['c', 'm', 'o', 'v', 'b'], .cmov .cmovb),
   (['c', 'm', 'o', 'v', 'c'], .cmov .cmovc),
   (['c', 'm', 'o', 'v', 'n', 'a', 'e'], .cmov .cmovnae),
   (['c', 'm', 'o', 'v', 'a', 'e'], .cmov .cmovae),
   (['c', 'm', 'o', 'v', 'n', 'b'], .cmov .cmovnb),
   (['c', 'm', 'o', 'v', 'n', 'c'], .cmov .cmovnc),
   (['c', 'm', 'o', 'v', 'e'], .cmov .cmove),
   (['c', 'm', 'o', 'v', 'z'], .cmov .cmovz),
   (['c', 'm', 'o', 'v', 'n', 'e'], .cmov .cmovne),
   (['c', 'm', 'o', 'v', 'n', 'z'], .cmov .cmovnz),
   (['c', 'm', 'o', 'v', 'b', 'e'], .cmov .cmovbe),
   (['c', 'm', 'o', 'v', 'n', 'a'], .cmov .cmovna),
   (['c', 'm', 'o', 'v', 'a'], .cmov .cmova),
   (['c', 'm', 'o', 'v', 'n', 'b', 'e'], .cmov .cmovnbe),
   (['c', 'm', 'o', 'v', 's'], .cmov .cmovs),
   (['c', 'm', 'o', 'v', 'n', 's'], .cmov .cmovns),
   (['c', 'm', 'o', 'v', 'p'], .cmov .cmovp),
   (['c', 'm', 'o', 'v', 'p', 'e'], .cmov .cmovpe),
   (['c', 'm', 'o', 'v', 'n', 'p'], .cmov .cmovnp),
   (['c', 'm', 'o', 'v', 'p', 'o'], .cmov .cmovpo),
   (['c', 'm', 'o', 'v', 'l'], .cmov .cmovl),
   (['c', 'm', 'o', 'v', 'n', 'g', 'e'], .cmov .cmovnge),
   (['c', 'm', 'o', 'v', 'g', 'e'], .cmov .cmovge),
   (['c', 'm', 'o', 'v', 'n', 'l'], .cmov .cmovnl),
   (['c', 'm', 'o', 'v', 'l', 'e'], .cmov .cmovle),
   (['c', 'm', 'o', 'v', 'n', 'g'], .cmov .cmovng),
   (['c', 'm', 'o', 'v', 'g'], .cmov .cmovg),
   (['c', 'm', 'o', 'v', 'n', 'l', 'e'], .cmov .cmovnle)]

/-- Conditional sets (R125, R329). -/
def setRows : List (Text × Row) :=
  [(['s', 'e', 't', 'o'], .setcc .seto),
   (['s', 'e', 't', 'n', 'o'], .setcc .setno),
   (['s', 'e', 't', 'b'], .setcc .setb),
   (['s', 'e', 't', 'c'], .setcc .setc),
   (['s', 'e', 't', 'n', 'a', 'e'], .setcc .setnae),
   (['s', 'e', 't', 'a', 'e'], .setcc .setae),
   (['s', 'e', 't', 'n', 'b'], .setcc .setnb),
   (['s', 'e', 't', 'n', 'c'], .setcc .setnc),
   (['s', 'e', 't', 'e'], .setcc .sete),
   (['s', 'e', 't', 'z'], .setcc .setz),
   (['s', 'e', 't', 'n', 'e'], .setcc .setne),
   (['s', 'e', 't', 'n', 'z'], .setcc .setnz),
   (['s', 'e', 't', 'b', 'e'], .setcc .setbe),
   (['s', 'e', 't', 'n', 'a'], .setcc .setna),
   (['s', 'e', 't', 'a'], .setcc .seta),
   (['s', 'e', 't', 'n', 'b', 'e'], .setcc .setnbe),
   (['s', 'e', 't', 's'], .setcc .sets),
   (['s', 'e', 't', 'n', 's'], .setcc .setns),
   (['s', 'e', 't', 'p'], .setcc .setp),
   (['s', 'e', 't', 'p', 'e'], .setcc .setpe),
   (['s', 'e', 't', 'n', 'p'], .setcc .setnp),
   (['s', 'e', 't', 'p', 'o'], .setcc .setpo),
   (['s', 'e', 't', 'l'], .setcc .setl),
   (['s', 'e', 't', 'n', 'g', 'e'], .setcc .setnge),
   (['s', 'e', 't', 'g', 'e'], .setcc .setge),
   (['s', 'e', 't', 'n', 'l'], .setcc .setnl),
   (['s', 'e', 't', 'l', 'e'], .setcc .setle),
   (['s', 'e', 't', 'n', 'g'], .setcc .setng),
   (['s', 'e', 't', 'g'], .setcc .setg),
   (['s', 'e', 't', 'n', 'l', 'e'], .setcc .setnle)]

/-- String primitives (R126). -/
def stringRows : List (Text × Row) :=
  [(['c', 'm', 'p', 's', 'b'], .plain .cmpsb),
   (['c', 'm', 'p', 's', 'w'], .plain .cmpsw),
   (['c', 'm', 'p', 's', 'd'], .plain .cmpsd),
   (['m', 'o', 'v', 's', 'b'], .plain .movsb),
   (['m', 'o', 'v', 's', 'w'], .plain .movsw),
   (['m', 'o', 'v', 's', 'd'], .plain .movsd),
   (['s', 'c', 'a', 's', 'b'], .plain .scasb),
   (['s', 'c', 'a', 's', 'w'], .plain .scasw),
   (['s', 'c', 'a', 's', 'd'], .plain .scasd),
   (['s', 't', 'o', 's', 'b'], .plain .stosb),
   (['s', 't', 'o', 's', 'w'], .plain .stosw),
   (['s', 't', 'o', 's', 'd'], .plain .stosd),
   (['l', 'o', 'd', 's', 'b'], .plain .lodsb),
   (['l', 'o', 'd', 's', 'w'], .plain .lodsw),
   (['l', 'o', 'd', 's', 'd'], .plain .lodsd),
   (['c', 'm', 'p', 's', 'l'], .plain .cmpsl),
   (['m', 'o', 'v', 's', 'l'], .plain .movsl),
   (['s', 'c', 'a', 's', 'l'], .plain .scasl),
   (['s', 't', 'o', 's', 'l'], .plain .stosl),
   (['l', 'o', 'd', 's', 'l'], .plain .lodsl)]

/-- Data movement, stack, flag transfer and control (47_data_stack_control.md), but for the exit instruction. -/
def controlRows : List (Text × Row) :=
  [(['m', 'o', 'v'], .alu .mov),
   (['p', 'u', 's', 'h'], .source .push),
   (['p', 'o', 'p'], .pop),
   (['p', 'u', 's', 'h', 'f'], .plain .pushf),
   (['p', 'o', 'p', 'f'], .plain .popf),
   (['l', 'a', 'h', 'f'], .plain .lahf),
   (['s', 'a', 'h', 'f'], .plain .sahf),
   (['j', 'm', 'p'], .jump .jmp),
   (['c', 'a', 'l', 'l'], .jump .call),
   (['r', 'e', 't'], .ret),
   (['e', 'n', 't', 'e', 'r'], .enter),
   (['l', 'e', 'a', 'v', 'e'], .plain .leave),
   (['n', 'o', 'p'], .plain .nop),
   (['p', 'u', 's', 'h', 'f', 'l'], .plain .pushfl),
   (['p', 'u', 's', 'h', 'f', 'd'], .plain .pushfd),
   (['p', 'o', 'p', 'f', 'l'], .plain .popfl),
   (['p', 'o', 'p', 'f', 'd'], .plain .popfd)]

/-- The opcode map (R129) but for the exit instruction, whose spelling is a parameter (R130). -/
def rows : List (Text × Row) :=
  arithmeticRows ++ multiplyShiftRows ++ controlRows ++ stringRows ++ jumpRows ++ cmovRows ++ setRows

/-- The size suffix letters (R119). -/
def suffixWidth : Char → Option Width
  | 'b' => some .w8
  | 'w' => some .w16
  | 'l' => some .w32
  | _ => none

/-- A suffixable base mnemonic followed by one size suffix letter (R118 (2)). -/
def lookupSuffixed (m : Text) : Option (Row × Width) :=
  match m.getLast? with
  | none => none
  | some c =>
    match suffixWidth c with
    | none => none
    | some w =>
      match assoc m.dropLast rows with
      | none => none
      | some r => if r.suffixable then some (r, w) else none

/-- Stage 1 of R165: mnemonic decode (R118, R124, R130). -/
def decodeMnemonic (cfg : Config) (m : Text) : Except ErrorKind (Row × Option Width) :=
  match assoc m rows with
  | some r => .ok (r, none)
  | none =>
    if m ∈ cfg.exitMnemonics then .ok (.plain .hlt, none)
    else
      match lookupSuffixed m with
      | some (r, w) => .ok (r, some w)
      | none =>
        if m ∈ cfg.unimplementedSet then .error (.unimplementedInstruction m) else .error (.unknownMnemonic m)

/-! ## Operands -/

/-- An operand whose spellings resolve and whose form is admitted (R87, R122). -/
inductive Opnd
  | imm (k : I32)
  | reg (r : Reg)
  | mem (m : MemRef)
  | label (name : Text)
deriving DecidableEq, Repr

/-- A spelling that resolves to no view (R34). -/
def unknownName (cfg : Config) (n : Text) : Option Text :=
  match lookupReg cfg n with
  | some _ => none
  | none => some n

/-- The first register spelling of an operand that does not resolve, the base's before the index's (R165 stage 3). -/
def Operand.unknown (cfg : Config) : Operand → Option Text
  | .literal _ => none
  | .register n => unknownName cfg n
  | .memory b _ _ i => (b.unknown cfg).or (i.bind (unknownName cfg))
  | .memoryNoBase _ _ i => i.bind (unknownName cfg)
  | .labelRef _ => none

/-- The scales 1, 2, 4, 8 (R86, R87). -/
def Scale.ofNat? : Nat → Option Scale
  | 1 => some .x1
  | 2 => some .x2
  | 4 => some .x4
  | 8 => some .x8
  | _ => none

/-- The number a scale stands for (R86). -/
def Scale.factor : Scale → Nat
  | .x1 => 1
  | .x2 => 2
  | .x4 => 4
  | .x8 => 8

/-- The cell of a 32-bit view; a base or index of another width is invalid (R87). -/
def Reg.cell32? : Reg → Option Cell
  | .r32 c => some c
  | .r16 _ | .lo8 _ | .hi8 _ => none

/-- A base that is a Register or a Literal; a Memory or LabelRef base is invalid (R87). -/
def resolveBase (cfg : Config) : Operand → Option Base
  | .literal k => some (.literal k)
  | .register n => ((lookupReg cfg n).bind Reg.cell32?).map .register
  | .memory _ _ _ _ | .memoryNoBase _ _ _ | .labelRef _ => none

/-- An index, if there is one, is a 32-bit register (R87). -/
def resolveIndex (cfg : Config) : Option Text → Option (Option Cell)
  | none => some none
  | some n => ((lookupReg cfg n).bind Reg.cell32?).map some

/-- The admitted memory operand of a base, an offset, a scale and an index (R86, R87). -/
def resolveMem (cfg : Config) (base : Option Base) (offset : I32) (scale : Nat) (index : Option Text) : Option MemRef :=
  match base, Scale.ofNat? scale, resolveIndex cfg index with
  | some b, some sc, some i => some ⟨b, offset, sc, i⟩
  | _, _, _ => none

/-- The admitted form of an operand whose spellings resolve; none is `InvalidOperand` (R87). -/
def Operand.resolve (cfg : Config) : Operand → Option Opnd
  | .literal k => some (.imm k)
  | .register n => (lookupReg cfg n).map .reg
  | .memory b o sc i => (resolveMem cfg (resolveBase cfg b) o sc i).map .mem
  | .memoryNoBase o sc i => (resolveMem cfg (some .absent) o sc i).map .mem
  | .labelRef n => some (.label n)

/-- A data source (R122). -/
def Opnd.src? : Opnd → Option Src
  | .imm k => some (.imm k)
  | .reg r => some (.reg r)
  | .mem m => some (.mem m)
  | .label _ => none

/-- A destination (R122). -/
def Opnd.dst? : Opnd → Option Dst
  | .reg r => some (.reg r)
  | .mem m => some (.mem m)
  | .imm _ | .label _ => none

/-- The destination of the two-operand `imul`: a Register (R129, R262). -/
def Opnd.reg? : Opnd → Option Reg
  | .reg r => some r
  | .imm _ | .mem _ | .label _ => none

/-- A Literal operand: the size and level of `ret` and `enter` (R129). -/
def Opnd.imm? : Opnd → Option I32
  | .imm k => some k
  | .reg _ | .mem _ | .label _ => none

/-- A count operand: a Literal, or the register `cl`, for which the answer holds no literal (R280). -/
def Opnd.count? : Opnd → Option (Option I32)
  | .imm k => some (some k)
  | .reg r => if r = .lo8 .ecx then some none else none
  | .mem _ | .label _ => none

/-- A jump or call target (R122). -/
def Opnd.label? : Opnd → Option Text
  | .label n => some n
  | .imm _ | .reg _ | .mem _ => none

/-- Stage 3 of R165 for one operand: its spellings resolve, then its form and kind are admitted. -/
def admitOperand {α : Type} (cfg : Config) (kind : Opnd → Option α) (op : Operand) : Except ErrorKind α :=
  match op.unknown cfg with
  | some n => .error (.unknownRegister n)
  | none =>
    match (op.resolve cfg).bind kind with
    | some a => .ok a
    | none => .error .invalidOperand

/-- A check whose failure is `InvalidOperand` (stages 2 and 4 of R165). -/
def ensure {α : Type} (c : Bool) (a : α) : Except ErrorKind α :=
  if c then .ok a else .error .invalidOperand

/-- A literal in `0..2^n - 1` as an `n`-bit field: counts, sizes and levels (R117). -/
def uimm? (n : Nat) (k : I32) : Option (BitVec n) :=
  if 0 ≤ k.toInt ∧ k.toInt ≤ 2 ^ n - 1 then some (k.setWidth n) else none

/-- The answer of a range check. -/
def orInvalid {α : Type} : Option α → Except ErrorKind α
  | some a => .ok a
  | none => .error .invalidOperand

/-- The count of the F2 form (R280). -/
def countOf : Option I32 → Except ErrorKind Count
  | none => .ok .cl
  | some k => (orInvalid (uimm? 8 k)).map .imm

/-- A rule that fixes the width at 32 admits the suffix `l` only (R121, R129). -/
def suffixIs32 (suffix : Option Width) : Bool :=
  decide (suffix = none ∨ suffix = some .w32)

/-! ## Stages 2 to 4, by the row's shape -/

/-- The generic two-operand forms (R120, R121, R122). -/
def buildBinary (cfg : Config) (suffix : Option Width) (mk : Width → Src → Dst → Instr) :
    List Operand → Except ErrorKind Instr
  | [a, b] => do
    let src ← admitOperand cfg Opnd.src? a
    let dst ← admitOperand cfg Opnd.dst? b
    let w := opWidth suffix dst.width? src.width?
    ensure (!bothMem src dst && src.fits w && dst.fits w) (mk w src dst)
  | _ => .error .invalidOperand

/-- The one-operand forms with a destination (R120, R121). -/
def buildUnary (cfg : Config) (suffix : Option Width) (mk : Width → Dst → Instr) : List Operand → Except ErrorKind Instr
  | [a] => do
    let dst ← admitOperand cfg Opnd.dst? a
    let w := opWidth suffix dst.width? none
    ensure (dst.fits w) (mk w dst)
  | _ => .error .invalidOperand

/-- The one-operand forms with a 32-bit source (R121). -/
def buildSource (cfg : Config) (suffix : Option Width) (mk : Src → Instr) : List Operand → Except ErrorKind Instr
  | [a] => do
    let src ← admitOperand cfg Opnd.src? a
    ensure (suffixIs32 suffix && src.fits .w32) (mk src)
  | _ => .error .invalidOperand

/-- `imul` (R261, R262). -/
def buildImul (cfg : Config) (suffix : Option Width) : List Operand → Except ErrorKind Instr
  | [a] => do
    let src ← admitOperand cfg Opnd.src? a
    ensure (suffixIs32 suffix && src.fits .w32) (.imul src none)
  | [a, b] => do
    let src ← admitOperand cfg Opnd.src? a
    let dst ← admitOperand cfg Opnd.reg? b
    let c ← orInvalid dst.cell32?
    ensure (suffixIs32 suffix && src.fits .w32) (.imul src (some c))
  | _ => .error .invalidOperand

/-- `pop` (R362). -/
def buildPop (cfg : Config) (suffix : Option Width) : List Operand → Except ErrorKind Instr
  | [a] => do
    let dst ← admitOperand cfg Opnd.dst? a
    ensure (suffixIs32 suffix && dst.fits .w32) (.pop dst)
  | _ => .error .invalidOperand

/-- The shifts and rotates (R280). -/
def buildShift (cfg : Config) (suffix : Option Width) (mk : Width → Count → Dst → Instr) :
    List Operand → Except ErrorKind Instr
  | [a] => do
    let dst ← admitOperand cfg Opnd.dst? a
    let w := opWidth suffix dst.width? none
    ensure (dst.fits w) (mk w .one dst)
  | [a, b] => do
    let k ← admitOperand cfg Opnd.count? a
    let dst ← admitOperand cfg Opnd.dst? b
    let w := opWidth suffix dst.width? none
    let count ← countOf k
    ensure (dst.fits w) (mk w count dst)
  | _ => .error .invalidOperand

/-- The jumps and `call` (R327, R368, R369); the label is looked up when the instruction runs (stage 5 of R165). -/
def buildJump (cfg : Config) (mk : Text → Instr) : List Operand → Except ErrorKind Instr
  | [a] => (admitOperand cfg Opnd.label? a).map mk
  | _ => .error .invalidOperand

/-- `set<cc>` (R329). -/
def buildSet (cfg : Config) (mk : Dst → Instr) : List Operand → Except ErrorKind Instr
  | [a] => do
    let dst ← admitOperand cfg Opnd.dst? a
    ensure (dst.fits .w8) (mk dst)
  | _ => .error .invalidOperand

/-- `ret` (R370). -/
def buildRet (cfg : Config) : List Operand → Except ErrorKind Instr
  | [] => .ok (.ret none)
  | [a] => do
    let k ← admitOperand cfg Opnd.imm? a
    let size ← orInvalid (uimm? 16 k)
    pure (.ret (some size))
  | _ => .error .invalidOperand

/-- `enter` (R371). -/
def buildEnter (cfg : Config) : List Operand → Except ErrorKind Instr
  | [a] => do
    let k ← admitOperand cfg Opnd.imm? a
    let size ← orInvalid (uimm? 16 k)
    pure (.enter size none)
  | [a, b] => do
    let k ← admitOperand cfg Opnd.imm? a
    let n ← admitOperand cfg Opnd.imm? b
    let size ← orInvalid (uimm? 16 k)
    let level ← orInvalid (uimm? 8 n)
    pure (.enter size (some level))
  | _ => .error .invalidOperand

/-- The F0 instructions (R123). -/
def buildPlain (i : Instr) : List Operand → Except ErrorKind Instr
  | [] => .ok i
  | _ :: _ => .error .invalidOperand

/-- Stages 2 to 4 of R165: arity, operands, widths and immediate ranges. -/
def Row.build (cfg : Config) (suffix : Option Width) (ops : List Operand) : Row → Except ErrorKind Instr
  | .alu mk => buildBinary cfg suffix mk ops
  | .unary mk => buildUnary cfg suffix mk ops
  | .source mk => buildSource cfg suffix mk ops
  | .imul => buildImul cfg suffix ops
  | .pop => buildPop cfg suffix ops
  | .shift mk => buildShift cfg suffix mk ops
  | .jump mk => buildJump cfg mk ops
  | .cmov mk => buildBinary cfg suffix mk ops
  | .setcc mk => buildSet cfg mk ops
  | .ret => buildRet cfg ops
  | .enter => buildEnter cfg ops
  | .plain i => buildPlain i ops

/-- Stages 1 to 4 of R165: the record's instruction, or the error kind it fails with. -/
def decode (cfg : Config) (r : Record) : Except ErrorKind Instr :=
  match decodeMnemonic cfg r.mnemonic with
  | .error e => .error e
  | .ok (row, suffix) => row.build cfg suffix r.operands

/-! ## The encoder: an admitted instruction as a record (R116, R118, R119, R129) -/

/-- The spelling of a size suffix (R119). -/
def suffixChar : Width → Char
  | .w8 => 'b'
  | .w16 => 'w'
  | .w32 => 'l'

/-- The 32-bit spelling of a cell (R32). -/
def cellName : Cell → Text
  | .eax => ['e', 'a', 'x']
  | .ecx => ['e', 'c', 'x']
  | .edx => ['e', 'd', 'x']
  | .ebx => ['e', 'b', 'x']
  | .esp => ['e', 's', 'p']
  | .ebp => ['e', 'b', 'p']
  | .esi => ['e', 's', 'i']
  | .edi => ['e', 'd', 'i']

/-- The spelling the configuration binds to the low byte of a cell (R33), or no text when there is none. -/
def extraName (cfg : Config) (c : Cell) : Text :=
  match cfg.extraLowByteNames.find? fun p => p.2.cell = c with
  | some p => p.1
  | none => []

/-- The spelling of a view (R32, R33). -/
def regName (cfg : Config) : Reg → Text
  | .r32 c => cellName c
  | .r16 .eax => ['a', 'x']
  | .r16 .ecx => ['c', 'x']
  | .r16 .edx => ['d', 'x']
  | .r16 .ebx => ['b', 'x']
  | .r16 .esp => ['s', 'p']
  | .r16 .ebp => ['b', 'p']
  | .r16 .esi => ['s', 'i']
  | .r16 .edi => ['d', 'i']
  | .lo8 .eax => ['a', 'l']
  | .lo8 .ecx => ['c', 'l']
  | .lo8 .edx => ['d', 'l']
  | .lo8 .ebx => ['b', 'l']
  | .lo8 .esp => extraName cfg .esp
  | .lo8 .ebp => extraName cfg .ebp
  | .lo8 .esi => extraName cfg .esi
  | .lo8 .edi => extraName cfg .edi
  | .hi8 .a => ['a', 'h']
  | .hi8 .c => ['c', 'h']
  | .hi8 .d => ['d', 'h']
  | .hi8 .b => ['b', 'h']

/-- A memory operand of the record (R111). -/
def encodeMem (m : MemRef) : Operand :=
  match m.base with
  | .absent => .memoryNoBase m.offset m.scale.factor (m.index.map cellName)
  | .literal k => .memory (.literal k) m.offset m.scale.factor (m.index.map cellName)
  | .register c => .memory (.register (cellName c)) m.offset m.scale.factor (m.index.map cellName)

/-- A source operand of the record. -/
def encodeSrc (cfg : Config) : Src → Operand
  | .imm k => .literal k
  | .reg r => .register (regName cfg r)
  | .mem m => encodeMem m

/-- A destination operand of the record. -/
def encodeDst (cfg : Config) : Dst → Operand
  | .reg r => .register (regName cfg r)
  | .mem m => encodeMem m

/-- The operands of a shift or rotate: F1, or F2 with the count first (R280). -/
def encodeShift (cfg : Config) (dst : Dst) : Count → List Operand
  | .one => [encodeDst cfg dst]
  | .imm k => [.literal (k.setWidth 32), encodeDst cfg dst]
  | .cl => [.register ['c', 'l'], encodeDst cfg dst]

/-- A mnemonic with its size suffix (R118 (2)). -/
def suffixed (m : Text) (w : Width) : Text :=
  m ++ [suffixChar w]

/-- The spelling of the exit instruction: the first of `EXIT_MNEMONICS` (R130), or no text when the set is empty. -/
def exitName (cfg : Config) : Text :=
  cfg.exitMnemonics.headD []

/-- The record of an instruction. Suffixable mnemonics carry the suffix of the operation width, but for the instructions whose
rule fixes the width (R120). -/
def encode (cfg : Config) : Instr → Record
  | .add w src dst => ⟨suffixed ['a', 'd', 'd'] w, [encodeSrc cfg src, encodeDst cfg dst]⟩
  | .adc w src dst => ⟨suffixed ['a', 'd', 'c'] w, [encodeSrc cfg src, encodeDst cfg dst]⟩
  | .sub w src dst => ⟨suffixed ['s', 'u', 'b'] w, [encodeSrc cfg src, encodeDst cfg dst]⟩
  | .sbb w src dst => ⟨suffixed ['s', 'b', 'b'] w, [encodeSrc cfg src, encodeDst cfg dst]⟩
  | .cmp w src dst => ⟨suffixed ['c', 'm', 'p'] w, [encodeSrc cfg src, encodeDst cfg dst]⟩
  | .inc w dst => ⟨suffixed ['i', 'n', 'c'] w, [encodeDst cfg dst]⟩
  | .dec w dst => ⟨suffixed ['d', 'e', 'c'] w, [encodeDst cfg dst]⟩
  | .neg w dst => ⟨suffixed ['n', 'e', 'g'] w, [encodeDst cfg dst]⟩
  | .and w src dst => ⟨suffixed ['a', 'n', 'd'] w, [encodeSrc cfg src, encodeDst cfg dst]⟩
  | .or w src dst => ⟨suffixed ['o', 'r'] w, [encodeSrc cfg src, encodeDst cfg dst]⟩
  | .xor w src dst => ⟨suffixed ['x', 'o', 'r'] w, [encodeSrc cfg src, encodeDst cfg dst]⟩
  | .test w src dst => ⟨suffixed ['t', 'e', 's', 't'] w, [encodeSrc cfg src, encodeDst cfg dst]⟩
  | .not w dst => ⟨suffixed ['n', 'o', 't'] w, [encodeDst cfg dst]⟩
  | .mul src => ⟨['m', 'u', 'l'], [encodeSrc cfg src]⟩
  | .imul src none => ⟨['i', 'm', 'u', 'l'], [encodeSrc cfg src]⟩
  | .imul src (some c) => ⟨['i', 'm', 'u', 'l'], [encodeSrc cfg src, .register (cellName c)]⟩
  | .div src => ⟨['d', 'i', 'v'], [encodeSrc cfg src]⟩
  | .idiv src => ⟨['i', 'd', 'i', 'v'], [encodeSrc cfg src]⟩
  | .rol w count dst => ⟨suffixed ['r', 'o', 'l'] w, encodeShift cfg dst count⟩
  | .ror w count dst => ⟨suffixed ['r', 'o', 'r'] w, encodeShift cfg dst count⟩
  | .rcl w count dst => ⟨suffixed ['r', 'c', 'l'] w, encodeShift cfg dst count⟩
  | .rcr w count dst => ⟨suffixed ['r', 'c', 'r'] w, encodeShift cfg dst count⟩
  | .shl w count dst => ⟨suffixed ['s', 'h', 'l'] w, encodeShift cfg dst count⟩
  | .sal w count dst => ⟨suffixed ['s', 'a', 'l'] w, encodeShift cfg dst count⟩
  | .shr w count dst => ⟨suffixed ['s', 'h', 'r'] w, encodeShift cfg dst count⟩
  | .sar w count dst => ⟨suffixed ['s', 'a', 'r'] w, encodeShift cfg dst count⟩
  | .jo target => ⟨['j', 'o'], [.labelRef target]⟩
  | .jno target => ⟨['j', 'n', 'o'], [.labelRef target]⟩
  | .jb target => ⟨['j', 'b'], [.labelRef target]⟩
  | .jc target => ⟨['j', 'c'], [.labelRef target]⟩
  | .jnae target => ⟨['j', 'n', 'a', 'e'], [.labelRef target]⟩
  | .jae target => ⟨['j', 'a', 'e'], [.labelRef target]⟩
  | .jnb target => ⟨['j', 'n', 'b'], [.labelRef target]⟩
  | .jnc target => ⟨['j', 'n', 'c'], [.labelRef target]⟩
  | .je target => ⟨['j', 'e'], [.labelRef target]⟩
  | .jz target => ⟨['j', 'z'], [.labelRef target]⟩
  | .jne target => ⟨['j', 'n', 'e'], [.labelRef target]⟩
  | .jnz target => ⟨['j', 'n', 'z'], [.labelRef target]⟩
  | .jbe target => ⟨['j', 'b', 'e'], [.labelRef target]⟩
  | .jna target => ⟨['j', 'n', 'a'], [.labelRef target]⟩
  | .ja target => ⟨['j', 'a'], [.labelRef target]⟩
  | .jnbe target => ⟨['j', 'n', 'b', 'e'], [.labelRef target]⟩
  | .js target => ⟨['j', 's'], [.labelRef target]⟩
  | .jns target => ⟨['j', 'n', 's'], [.labelRef target]⟩
  | .jp target => ⟨['j', 'p'], [.labelRef target]⟩
  | .jpe target => ⟨['j', 'p', 'e'], [.labelRef target]⟩
  | .jnp target => ⟨['j', 'n', 'p'], [.labelRef target]⟩
  | .jpo target => ⟨['j', 'p', 'o'], [.labelRef target]⟩
  | .jl target => ⟨['j', 'l'], [.labelRef target]⟩
  | .jnge target => ⟨['j', 'n', 'g', 'e'], [.labelRef target]⟩
  | .jge target => ⟨['j', 'g', 'e'], [.labelRef target]⟩
  | .jnl target => ⟨['j', 'n', 'l'], [.labelRef target]⟩
  | .jle target => ⟨['j', 'l', 'e'], [.labelRef target]⟩
  | .jng target => ⟨['j', 'n', 'g'], [.labelRef target]⟩
  | .jg target => ⟨['j', 'g'], [.labelRef target]⟩
  | .jnle target => ⟨['j', 'n', 'l', 'e'], [.labelRef target]⟩
  | .cmovo _ src dst => ⟨['c', 'm', 'o', 'v', 'o'], [encodeSrc cfg src, encodeDst cfg dst]⟩
  | .cmovno _ src dst => ⟨['c', 'm', 'o', 'v', 'n', 'o'], [encodeSrc cfg src, encodeDst cfg dst]⟩
  | .cmovb _ src dst => ⟨['c', 'm', 'o', 'v', 'b'], [encodeSrc cfg src, encodeDst cfg dst]⟩
  | .cmovc _ src dst => ⟨['c', 'm', 'o', 'v', 'c'], [encodeSrc cfg src, encodeDst cfg dst]⟩
  | .cmovnae _ src dst => ⟨['c', 'm', 'o', 'v', 'n', 'a', 'e'], [encodeSrc cfg src, encodeDst cfg dst]⟩
  | .cmovae _ src dst => ⟨['c', 'm', 'o', 'v', 'a', 'e'], [encodeSrc cfg src, encodeDst cfg dst]⟩
  | .cmovnb _ src dst => ⟨['c', 'm', 'o', 'v', 'n', 'b'], [encodeSrc cfg src, encodeDst cfg dst]⟩
  | .cmovnc _ src dst => ⟨['c', 'm', 'o', 'v', 'n', 'c'], [encodeSrc cfg src, encodeDst cfg dst]⟩
  | .cmove _ src dst => ⟨['c', 'm', 'o', 'v', 'e'], [encodeSrc cfg src, encodeDst cfg dst]⟩
  | .cmovz _ src dst => ⟨['c', 'm', 'o', 'v', 'z'], [encodeSrc cfg src, encodeDst cfg dst]⟩
  | .cmovne _ src dst => ⟨['c', 'm', 'o', 'v', 'n', 'e'], [encodeSrc cfg src, encodeDst cfg dst]⟩
  | .cmovnz _ src dst => ⟨['c', 'm', 'o', 'v', 'n', 'z'], [encodeSrc cfg src, encodeDst cfg dst]⟩
  | .cmovbe _ src dst => ⟨['c', 'm', 'o', 'v', 'b', 'e'], [encodeSrc cfg src, encodeDst cfg dst]⟩
  | .cmovna _ src dst => ⟨['c', 'm', 'o', 'v', 'n', 'a'], [encodeSrc cfg src, encodeDst cfg dst]⟩
  | .cmova _ src dst => ⟨['c', 'm', 'o', 'v', 'a'], [encodeSrc cfg src, encodeDst cfg dst]⟩
  | .cmovnbe _ src dst => ⟨['c', 'm', 'o', 'v', 'n', 'b', 'e'], [encodeSrc cfg src, encodeDst cfg dst]⟩
  | .cmovs _ src dst => ⟨['c', 'm', 'o', 'v', 's'], [encodeSrc cfg src, encodeDst cfg dst]⟩
  | .cmovns _ src dst => ⟨['c', 'm', 'o', 'v', 'n', 's'], [encodeSrc cfg src, encodeDst cfg dst]⟩
  | .cmovp _ src dst => ⟨['c', 'm', 'o', 'v', 'p'], [encodeSrc cfg src, encodeDst cfg dst]⟩
  | .cmovpe _ src dst => ⟨['c', 'm', 'o', 'v', 'p', 'e'], [encodeSrc cfg src, encodeDst cfg dst]⟩
  | .cmovnp _ src dst => ⟨['c', 'm', 'o', 'v', 'n', 'p'], [encodeSrc cfg src, encodeDst cfg dst]⟩
  | .cmovpo _ src dst => ⟨['c', 'm', 'o', 'v', 'p', 'o'], [encodeSrc cfg src, encodeDst cfg dst]⟩
  | .cmovl _ src dst => ⟨['c', 'm', 'o', 'v', 'l'], [encodeSrc cfg src, encodeDst cfg dst]⟩
  | .cmovnge _ src dst => ⟨['c', 'm', 'o', 'v', 'n', 'g', 'e'], [encodeSrc cfg src, encodeDst cfg dst]⟩
  | .cmovge _ src dst => ⟨['c', 'm', 'o', 'v', 'g', 'e'], [encodeSrc cfg src, encodeDst cfg dst]⟩
  | .cmovnl _ src dst => ⟨['c', 'm', 'o', 'v', 'n', 'l'], [encodeSrc cfg src, encodeDst cfg dst]⟩
  | .cmovle _ src dst => ⟨['c', 'm', 'o', 'v', 'l', 'e'], [encodeSrc cfg src, encodeDst cfg dst]⟩
  | .cmovng _ src dst => ⟨['c', 'm', 'o', 'v', 'n', 'g'], [encodeSrc cfg src, encodeDst cfg dst]⟩
  | .cmovg _ src dst => ⟨['c', 'm', 'o', 'v', 'g'], [encodeSrc cfg src, encodeDst cfg dst]⟩
  | .cmovnle _ src dst => ⟨['c', 'm', 'o', 'v', 'n', 'l', 'e'], [encodeSrc cfg src, encodeDst cfg dst]⟩
  | .seto dst => ⟨['s', 'e', 't', 'o'], [encodeDst cfg dst]⟩
  | .setno dst => ⟨['s', 'e', 't', 'n', 'o'], [encodeDst cfg dst]⟩
  | .setb dst => ⟨['s', 'e', 't', 'b'], [encodeDst cfg dst]⟩
  | .setc dst => ⟨['s', 'e', 't', 'c'], [encodeDst cfg dst]⟩
  | .setnae dst => ⟨['s', 'e', 't', 'n', 'a', 'e'], [encodeDst cfg dst]⟩
  | .setae dst => ⟨['s', 'e', 't', 'a', 'e'], [encodeDst cfg dst]⟩
  | .setnb dst => ⟨['s', 'e', 't', 'n', 'b'], [encodeDst cfg dst]⟩
  | .setnc dst => ⟨['s', 'e', 't', 'n', 'c'], [encodeDst cfg dst]⟩
  | .sete dst => ⟨['s', 'e', 't', 'e'], [encodeDst cfg dst]⟩
  | .setz dst => ⟨['s', 'e', 't', 'z'], [encodeDst cfg dst]⟩
  | .setne dst => ⟨['s', 'e', 't', 'n', 'e'], [encodeDst cfg dst]⟩
  | .setnz dst => ⟨['s', 'e', 't', 'n', 'z'], [encodeDst cfg dst]⟩
  | .setbe dst => ⟨['s', 'e', 't', 'b', 'e'], [encodeDst cfg dst]⟩
  | .setna dst => ⟨['s', 'e', 't', 'n', 'a'], [encodeDst cfg dst]⟩
  | .seta dst => ⟨['s', 'e', 't', 'a'], [encodeDst cfg dst]⟩
  | .setnbe dst => ⟨['s', 'e', 't', 'n', 'b', 'e'], [encodeDst cfg dst]⟩
  | .sets dst => ⟨['s', 'e', 't', 's'], [encodeDst cfg dst]⟩
  | .setns dst => ⟨['s', 'e', 't', 'n', 's'], [encodeDst cfg dst]⟩
  | .setp dst => ⟨['s', 'e', 't', 'p'], [encodeDst cfg dst]⟩
  | .setpe dst => ⟨['s', 'e', 't', 'p', 'e'], [encodeDst cfg dst]⟩
  | .setnp dst => ⟨['s', 'e', 't', 'n', 'p'], [encodeDst cfg dst]⟩
  | .setpo dst => ⟨['s', 'e', 't', 'p', 'o'], [encodeDst cfg dst]⟩
  | .setl dst => ⟨['s', 'e', 't', 'l'], [encodeDst cfg dst]⟩
  | .setnge dst => ⟨['s', 'e', 't', 'n', 'g', 'e'], [encodeDst cfg dst]⟩
  | .setge dst => ⟨['s', 'e', 't', 'g', 'e'], [encodeDst cfg dst]⟩
  | .setnl dst => ⟨['s', 'e', 't', 'n', 'l'], [encodeDst cfg dst]⟩
  | .setle dst => ⟨['s', 'e', 't', 'l', 'e'], [encodeDst cfg dst]⟩
  | .setng dst => ⟨['s', 'e', 't', 'n', 'g'], [encodeDst cfg dst]⟩
  | .setg dst => ⟨['s', 'e', 't', 'g'], [encodeDst cfg dst]⟩
  | .setnle dst => ⟨['s', 'e', 't', 'n', 'l', 'e'], [encodeDst cfg dst]⟩
  | .cmpsb => ⟨['c', 'm', 'p', 's', 'b'], []⟩
  | .cmpsw => ⟨['c', 'm', 'p', 's', 'w'], []⟩
  | .cmpsd => ⟨['c', 'm', 'p', 's', 'd'], []⟩
  | .movsb => ⟨['m', 'o', 'v', 's', 'b'], []⟩
  | .movsw => ⟨['m', 'o', 'v', 's', 'w'], []⟩
  | .movsd => ⟨['m', 'o', 'v', 's', 'd'], []⟩
  | .scasb => ⟨['s', 'c', 'a', 's', 'b'], []⟩
  | .scasw => ⟨['s', 'c', 'a', 's', 'w'], []⟩
  | .scasd => ⟨['s', 'c', 'a', 's', 'd'], []⟩
  | .stosb => ⟨['s', 't', 'o', 's', 'b'], []⟩
  | .stosw => ⟨['s', 't', 'o', 's', 'w'], []⟩
  | .stosd => ⟨['s', 't', 'o', 's', 'd'], []⟩
  | .lodsb => ⟨['l', 'o', 'd', 's', 'b'], []⟩
  | .lodsw => ⟨['l', 'o', 'd', 's', 'w'], []⟩
  | .lodsd => ⟨['l', 'o', 'd', 's', 'd'], []⟩
  | .mov w src dst => ⟨suffixed ['m', 'o', 'v'] w, [encodeSrc cfg src, encodeDst cfg dst]⟩
  | .push src => ⟨['p', 'u', 's', 'h'], [encodeSrc cfg src]⟩
  | .pop dst => ⟨['p', 'o', 'p'], [encodeDst cfg dst]⟩
  | .pushf => ⟨['p', 'u', 's', 'h', 'f'], []⟩
  | .popf => ⟨['p', 'o', 'p', 'f'], []⟩
  | .lahf => ⟨['l', 'a', 'h', 'f'], []⟩
  | .sahf => ⟨['s', 'a', 'h', 'f'], []⟩
  | .jmp target => ⟨['j', 'm', 'p'], [.labelRef target]⟩
  | .call target => ⟨['c', 'a', 'l', 'l'], [.labelRef target]⟩
  | .ret none => ⟨['r', 'e', 't'], []⟩
  | .ret (some size) => ⟨['r', 'e', 't'], [.literal (size.setWidth 32)]⟩
  | .enter size none => ⟨['e', 'n', 't', 'e', 'r'], [.literal (size.setWidth 32)]⟩
  | .enter size (some level) => ⟨['e', 'n', 't', 'e', 'r'], [.literal (size.setWidth 32), .literal (level.setWidth 32)]⟩
  | .leave => ⟨['l', 'e', 'a', 'v', 'e'], []⟩
  | .nop => ⟨['n', 'o', 'p'], []⟩
  | .hlt => ⟨exitName cfg, []⟩
  | .pushfl => ⟨['p', 'u', 's', 'h', 'f', 'l'], []⟩
  | .pushfd => ⟨['p', 'u', 's', 'h', 'f', 'd'], []⟩
  | .popfl => ⟨['p', 'o', 'p', 'f', 'l'], []⟩
  | .popfd => ⟨['p', 'o', 'p', 'f', 'd'], []⟩
  | .cmpsl => ⟨['c', 'm', 'p', 's', 'l'], []⟩
  | .movsl => ⟨['m', 'o', 'v', 's', 'l'], []⟩
  | .scasl => ⟨['s', 'c', 'a', 's', 'l'], []⟩
  | .stosl => ⟨['s', 't', 'o', 's', 'l'], []⟩
  | .lodsl => ⟨['l', 'o', 'd', 's', 'l'], []⟩

/-- A configuration under which every register view and the exit instruction can be spelled without a clash: at most four extra
low-byte names, none of them a name of R32 and no two alike (R33), and an exit mnemonic that is no other spelling of the map
(R130). -/
def Config.spellingsClear (cfg : Config) : Bool :=
  decide (cfg.extraLowByteNames.length ≤ 4) &&
  cfg.extraLowByteNames.all (fun p => (assoc p.1 regNames).isNone) &&
  decide ((cfg.extraLowByteNames.map Prod.fst).Nodup) &&
  !cfg.exitMnemonics.isEmpty &&
  cfg.exitMnemonics.all (fun m => (assoc m rows).isNone && (lookupSuffixed m).isNone)

/-! ## The words of opcode_table.json -/

/-- The mnemonic whose characters are the bytes of a word, the first in bits 7..0, up to the first zero byte. The table gives its
rows a `match` string and no bits, and the hardware has no binary encoding (R8): DESIGN CHOICE, log 14. -/
def textOfWord : Nat → Nat → Text
  | 0, _ => []
  | n + 1, w => if w % 256 = 0 then [] else Char.ofNat (w % 256) :: textOfWord n (w / 256)

/-- What operand words of zeros stand for (log 14): the first of these lists the row admits. -/
def zeroOperandLists : List (List Operand) :=
  [[],
   [.labelRef []],
   [.register ['e', 'a', 'x']],
   [.register ['a', 'l']],
   [.register ['e', 'a', 'x'], .register ['e', 'a', 'x']],
   [.literal 0]]

/-- The record of a table word (log 14). -/
def recordOfWord (nbits w : Nat) : Record :=
  let m := textOfWord (nbits / 8) w
  ⟨m, (zeroOperandLists.find? fun ops => (decode .default ⟨m, ops⟩).isOk).getD []⟩

/-- The instruction the decoder reads from a table word (log 14). -/
def decodeTableWord (nbits w : Nat) : Option Instr :=
  (decode .default (recordOfWord nbits w)).toOption

end Sys2Proof
end

