-- ==== Sys2Proof/Machine/State.lean ====
section
/-! DEFINITION. The state of the core (10_state.md, INVENTORY.md), its reset (70_reset_and_hazards.md), and the reasons a step of
the model can stop. -/

namespace Sys2Proof.Machine

/-- The register file: eight 32-bit cells (R30). -/
structure Cells where
  eax : Word
  ecx : Word
  edx : Word
  ebx : Word
  esp : Word
  ebp : Word
  esi : Word
  edi : Word
deriving DecidableEq, Repr

/-- The sixteen flags (R40); `ifl` is IF, `ovf` is OF and `idf` is ID. -/
structure Flags where
  cf : Bool
  pf : Bool
  af : Bool
  zf : Bool
  sf : Bool
  tf : Bool
  ifl : Bool
  df : Bool
  ovf : Bool
  nt : Bool
  rf : Bool
  vm : Bool
  ac : Bool
  vif : Bool
  vip : Bool
  idf : Bool
deriving DecidableEq, Repr

/-- All sixteen flags false: the default-constructed flag register (R60, D4). -/
def Flags.clear : Flags :=
  ⟨false, false, false, false, false, false, false, false, false, false, false, false, false, false, false, false⟩

/-- Data memory as the bytes that differ from what an unlisted address reads as, by rising address (R58, R80). -/
abbrev Memory := List Host.Cell

/-- Why a run halted (R56). -/
inductive HaltReason
  | exit
  | endOfStream
  | error (e : ErrorKind)
deriving DecidableEq, Repr

/-- The run status (R56, R160). -/
inductive Status
  | resolving
  | running
  | halted (r : HaltReason)
deriving DecidableEq, Repr

/-- The machine's state: every piece of state INVENTORY.md lists. -/
structure State where
  /-- The register file (R30). -/
  cells : Cells
  /-- The flag register (R40). -/
  flags : Flags
  /-- The program counter: an index into the stream (R50). -/
  pc : Nat
  /-- The exit flag (R52). -/
  exit : Bool
  /-- Data memory (R58). -/
  mem : Memory
  /-- The program the host supplied, before the resolving pass (R110, R414). -/
  program : List ProgLine
  /-- The stream S of the resolving pass (R54, R161). -/
  stream : List Line
  /-- The label table of the resolving pass (R53, R161). -/
  labels : List (Text × Nat)
  /-- The run status (R56). -/
  status : Status
  /-- The parameters of R10, fixed for the run (R444). -/
  cfg : Config
  /-- How many free values have been drawn: the model's own counter (R16, R174; log 5). -/
  draws : Nat
deriving DecidableEq, Repr

/-- The only fault of a step. -/
inductive Fault
  /-- Raised by `step` from a state whose status is Halted, of which R18 says "nothing steps from it" (R56). Safe: no next state
  is claimed (log 6). An error of R400 is no fault of the model: it is a next state with status Halted. -/
  | halted (r : HaltReason)
deriving DecidableEq, Repr

/-- Why a step is refused. -/
inductive Refusal
  /-- Raised by an arm of `exec` whose instruction has no meaning yet. Safe. No arm raises it. -/
  | notModelled (mnemonic : String)
deriving DecidableEq, Repr

/-- The state before the resolving pass, for every choice of the host's inputs: parameters, `INIT_GPR`, `INIT_MEM` and program
(R60, R414, R442). -/
def State.initial (cfg : Config) (initGpr : Cells) (initMem : Memory) (program : List ProgLine) : State where
  cells := initGpr
  flags := Flags.clear
  pc := 0
  exit := false
  mem := initMem
  program := program
  stream := []
  labels := []
  status := .resolving
  cfg := cfg
  draws := 0

/-- The values `INIT_GPR` takes at reset: the spec leaves them open (D2), these are its test configuration's (D56).
DESIGN CHOICE, unsafe: log 3. -/
def resetCells : Cells where
  eax := 0
  ecx := 0
  edx := 0
  ebx := 0
  esp := 0x80
  ebp := 0
  esi := 0
  edi := 0

/-- The machine after reset (R440, R442) with no program placed (log 8), the parameters at their defaults (log 2), the registers at
`resetCells` (log 3) and nothing listed in memory (log 4). -/
def State.reset : State :=
  State.initial .default resetCells [] []

end Sys2Proof.Machine
end

