-- ==== Sys2Proof/Machine/Memory.lean ====
section
/-! DEFINITION. The bytes of data memory (20_memory.md rules R80 to R85): one canonical list, read and written byte by byte. -/

namespace Sys2Proof.Machine

/-- What a byte of memory that is not listed reads as. The spec leaves `INIT_MEM` open (D3): DESIGN CHOICE 0, log 4. -/
def unlistedByte : Byte := 0

/-- The byte at address `a`. -/
def readByte : Memory → Nat → Byte
  | [], _ => unlistedByte
  | (x, b) :: m, a => if x = a then b else readByte m a

/-- The entry of a byte: none when it equals what an unlisted address reads as. -/
def entry (a : Nat) (b : Byte) : Memory :=
  if b = unlistedByte then [] else [(a, b)]

/-- Memory with the byte at `a` replaced, in canonical form. -/
def writeByte : Memory → Nat → Byte → Memory
  | [], a, b => entry a b
  | (x, c) :: m, a, b =>
    if a < x then entry a b ++ (x, c) :: m
    else if a = x then entry a b ++ m
    else (x, c) :: writeByte m a b

/-- `Σ_{i<n} Mem[a+i] · 2^(8i)`: the byte at the lowest address is the least significant (R82). -/
def readBytes (m : Memory) (a : Nat) : Nat → Nat
  | 0 => 0
  | n + 1 => (readByte m a).toNat + 256 * readBytes m (a + 1) n

/-- `Mem[a+i] <- v[8i+7:8i]` for `i < n` (R83). -/
def writeBytes (m : Memory) (a : Nat) : Nat → Nat → Memory
  | 0, _ => m
  | n + 1, v => writeBytes (writeByte m a (BitVec.ofNat 8 v)) (a + 1) n (v / 256)

/-- Addresses rise strictly from `lo`, and no entry equals what an unlisted address reads as. -/
def Memory.wfFrom (lo : Nat) : Memory → Bool
  | [] => true
  | (a, b) :: m => decide (lo ≤ a) && decide (b ≠ unlistedByte) && Memory.wfFrom (a + 1) m

/-- The canonical form: equal memories are equal lists. -/
def Memory.wf (m : Memory) : Bool :=
  Memory.wfFrom 0 m

/-- Every listed byte lies inside a memory of `size` bytes (R80). -/
def Memory.within (size : Nat) (m : Memory) : Bool :=
  m.all fun c => decide (c.1 < size)

end Sys2Proof.Machine
end

