-- ==== Sys2Proof/Machine/Ops.lean ====
section
/-! DEFINITION. The named operations of the step: field updates, register cells, bounds-checked memory access, free values, taking
an error, completing an instruction, fetching, and the resolving pass (10_state.md, 20_memory.md, 40_execution.md,
60_exceptions.md). -/

namespace Sys2Proof.Machine

/-- What `exec` and `step` answer. -/
abbrev Result := Host.Outcome State Fault Refusal

/-! ## Field updates -/

/-- Replace the register file. -/
def State.withCells (cs : Cells) (s : State) : State := { s with cells := cs }

/-- Replace the flags. -/
def State.withFlags (f : Flags) (s : State) : State := { s with flags := f }

/-- Replace the program counter. -/
def State.withPc (n : Nat) (s : State) : State := { s with pc := n }

/-- Replace the exit flag. -/
def State.withExit (b : Bool) (s : State) : State := { s with exit := b }

/-- Replace data memory. -/
def State.withMem (m : Memory) (s : State) : State := { s with mem := m }

/-- Replace the run status. -/
def State.withStatus (st : Status) (s : State) : State := { s with status := st }

/-- Replace the count of draws. -/
def State.withDraws (n : Nat) (s : State) : State := { s with draws := n }

/-! ## Register cells (R30) -/

/-- The 32-bit value of a cell. -/
def Cells.get (cs : Cells) : Cell → Word
  | .eax => cs.eax
  | .ecx => cs.ecx
  | .edx => cs.edx
  | .ebx => cs.ebx
  | .esp => cs.esp
  | .ebp => cs.ebp
  | .esi => cs.esi
  | .edi => cs.edi

/-- The register file with one cell replaced. -/
def Cells.set (cs : Cells) (v : Word) : Cell → Cells
  | .eax => { cs with eax := v }
  | .ecx => { cs with ecx := v }
  | .edx => { cs with edx := v }
  | .ebx => { cs with ebx := v }
  | .esp => { cs with esp := v }
  | .ebp => { cs with ebp := v }
  | .esi => { cs with esi := v }
  | .edi => { cs with edi := v }

/-- `x[c]` for a 32-bit view. -/
def State.cell (s : State) (c : Cell) : Word := s.cells.get c

/-- `x[c] <- v` for a 32-bit view. -/
def State.setCell (c : Cell) (v : Word) (s : State) : State := s.withCells (s.cells.set v c)

/-! ## Memory access (R82 to R85) -/

/-- An access of `n` bytes at `a` is in bounds, over the integers (R84). -/
abbrev State.inBounds (s : State) (a : Int) (n : Nat) : Prop := 0 ≤ a ∧ a + n ≤ s.cfg.memSize

/-- `MemRead(a, w/8)` (R82, R84). -/
def State.memRead (s : State) (a : Int) (w : Width) : Except ErrorKind (BitVec w.bits) :=
  if s.inBounds a w.bytes then .ok (BitVec.ofNat w.bits (readBytes s.mem a.toNat w.bytes))
  else .error (.outOfBoundsMemoryAccess a w.bytes)

/-- `MemWrite(a, w/8, v)` (R83, R84). -/
def State.memWrite (s : State) (a : Int) (w : Width) (v : BitVec w.bits) : Except ErrorKind State :=
  if s.inBounds a w.bytes then .ok (s.withMem (writeBytes s.mem a.toNat w.bytes v.toNat))
  else .error (.outOfBoundsMemoryAccess a w.bytes)

/-- The address a 32-bit register value names. -/
def addrOf (v : Word) : Int := v.toNat

/-! ## Free values (R16, R174; log 5) -/

/-- The `k`-th `any` bit an instruction draws. -/
def State.draw (s : State) (k : Nat) : Bool := Config.freeBit (s.draws + k)

/-- The state after `k` draws. -/
def State.drew (k : Nat) (s : State) : State := s.withDraws (s.draws + k)

/-- `choose {a, b}` under an alias parameter: `snapshot` and `inplace` select one, `either` draws (R210, R363). -/
def State.choose {α : Type} (s : State) (p : AliasPolicy) (snapshot inplace : α) : α :=
  match p with
  | .snapshot => snapshot
  | .inplace => inplace
  | .either => if s.draw 0 then inplace else snapshot

/-- The state after a `choose`: `either` used one draw. -/
def State.chose (p : AliasPolicy) (s : State) : State :=
  match p with
  | .snapshot | .inplace => s
  | .either => s.drew 1

/-! ## Errors and completion (R162, R170, R401, R402) -/

/-- Taking an error, this hardware's only exception: the status becomes Halted(Error(kind)) and nothing else changes, the pc
included (R170, R401, R402). No state is saved and there is no return from it (R407). -/
def State.raise (e : ErrorKind) (s : State) : State := s.withStatus (.halted (.error e))

/-- After an instruction has committed, the exit flag halts the run (R162). -/
def State.retire (s : State) : State :=
  if s.exit then s.withStatus (.halted .exit) else s

/-- Commit an instruction run from `s`: its new state, or the error with nothing committed (R162, R170). -/
def complete (s : State) (r : Except ErrorKind State) : Result :=
  match r with
  | .error e => .next (s.raise e)
  | .ok t => .next t.retire

/-- `pc <- pc + 1` (R51, R173). -/
def State.advance (s : State) : State := s.withPc (s.pc + 1)

/-! ## Fetch and the resolving pass (R161, R162) -/

/-- The line at the pc; none when the stream is exhausted. -/
def State.fetch (s : State) : Option Line := s.stream[s.pc]?

/-- The stream is exhausted (R162). -/
def State.endOfStream (s : State) : State := s.withStatus (.halted .endOfStream)

/-- The first definition of a label wins (R53, R161). -/
def addLabel (labels : List (Text × Nat)) (name : Text) (index : Nat) : List (Text × Nat) :=
  match assoc name labels with
  | some _ => labels
  | none => labels ++ [(name, index)]

/-- One line of the resolving pass (R161). -/
def resolveLine (acc : List Line × List (Text × Nat)) : ProgLine → List Line × List (Text × Nat)
  | .label name none => (acc.1, addLabel acc.2 name acc.1.length)
  | .label name (some l) => (acc.1 ++ [l], addLabel acc.2 name acc.1.length)
  | .plain l => (acc.1 ++ [l], acc.2)

/-- The stream and the label table of a program (R161). -/
def resolvePass (p : List ProgLine) : List Line × List (Text × Nat) :=
  p.foldl resolveLine ([], [])

/-- The resolving pass, after which the core is Running (R160, R442). -/
def State.resolve (s : State) : State :=
  { s with stream := (resolvePass s.program).1, labels := (resolvePass s.program).2, status := .running }

/-! ## The run's result (R175, R414) -/

/-- What the host receives when the core halts. -/
structure RunResult where
  reason : HaltReason
  cells : Cells
  flags : Flags
  pc : Nat
  labels : List (Text × Nat)
  mem : Memory
deriving DecidableEq, Repr

/-- The result of a halted core; none while it runs (R175). -/
def State.runResult (s : State) : Option RunResult :=
  match s.status with
  | .halted r => some ⟨r, s.cells, s.flags, s.pc, s.labels, s.mem⟩
  | .resolving | .running => none

end Sys2Proof.Machine
end

