-- ==== Sys2Proof/Machine/Operands.lean ====
section
/-! DEFINITION. Register views, effective addresses and operand values (10_state.md rules R30 to R36, 20_memory.md rules R86 to
R89, 40_execution.md rules R166 to R168). -/

namespace Sys2Proof.Machine

/-! ## Register views (R32, R35, R36) -/

/-- The cell a high-byte view belongs to (R32). -/
def highCell : HighCell → Cell
  | .a => .eax
  | .c => .ecx
  | .d => .edx
  | .b => .ebx

/-- The cell of a view (R32). -/
def regCell : Reg → Cell
  | .r32 c => c
  | .r16 c => c
  | .lo8 c => c
  | .hi8 h => highCell h

/-- `x[r]`: the value of the view's bytes (R35). -/
def State.readReg (s : State) : (r : Reg) → BitVec r.width.bits
  | .r32 c => s.cell c
  | .r16 c => (s.cell c).extractLsb' 0 16
  | .lo8 c => (s.cell c).extractLsb' 0 8
  | .hi8 h => (s.cell (highCell h)).extractLsb' 8 8

/-- A cell's value with the view's bytes replaced and every other byte kept (R36). -/
def insertView (old : Word) : (r : Reg) → BitVec r.width.bits → Word
  | .r32 _, v => v
  | .r16 _, v => old.extractLsb' 16 16 ++ v
  | .lo8 _, v => old.extractLsb' 8 24 ++ v
  | .hi8 _, v => old.extractLsb' 16 16 ++ v ++ old.extractLsb' 0 8

/-- `x[r] <- v` (R36). -/
def State.writeReg (s : State) (r : Reg) (v : BitVec r.width.bits) : State :=
  s.setCell (regCell r) (insertView (s.cell (regCell r)) r v)

/-! ## Effective addresses (R86) -/

/-- The base's contribution: an unsigned register value, a literal's value, or 0. -/
def State.baseValue (s : State) : Base → Int
  | .absent => 0
  | .literal k => k.toInt
  | .register c => (s.cell c).toNat

/-- The index's contribution: an unsigned register value, or 0. -/
def State.indexValue (s : State) : Option Cell → Int
  | none => 0
  | some c => (s.cell c).toNat

/-- `EA = B + offset + I * scale` over the integers, no wrap (R86). -/
def State.ea (s : State) (m : MemRef) : Int :=
  s.baseValue m.base + m.offset.toInt + s.indexValue m.index * m.scale.factor

/-! ## Operand views (R166, R167) -/

/-- A ValueView by its origin; a Memory view holds the address resolved at the start of the instruction (R89, R166). -/
inductive ValueView
  | register (r : Reg)
  | memory (addr : Int)
  | immediate (k : I32)
deriving DecidableEq, Repr

/-- Resolve a source operand (R89, R166). -/
def State.srcView (s : State) : Src → ValueView
  | .imm k => .immediate k
  | .reg r => .register r
  | .mem m => .memory (s.ea m)

/-- Resolve a destination operand (R89, R166). -/
def State.dstView (s : State) : Dst → ValueView
  | .reg r => .register r
  | .mem m => .memory (s.ea m)

/-- `imm_w(k) = k mod 2^w` (R117). -/
def immValue (w : Width) (k : I32) : BitVec w.bits := k.setWidth w.bits

/-- `val(op, w)` (R166). -/
def State.val (s : State) (w : Width) : ValueView → Except ErrorKind (BitVec w.bits)
  | .register r => .ok ((s.readReg r).setWidth w.bits)
  | .memory a => s.memRead a w
  | .immediate k => .ok (immValue w k)

/-- `write(op, w, v)` (R167). An immediate's scratch storage is never written back (R166). -/
def State.writeView (s : State) (w : Width) (v : BitVec w.bits) : ValueView → Except ErrorKind State
  | .register r => .ok (s.writeReg r (v.setWidth r.width.bits))
  | .memory a => s.memWrite a w v
  | .immediate _ => .ok s

/-- A resolved destination that is not written must still be in bounds (R328). -/
def State.checkView (s : State) (w : Width) (v : ValueView) : Except ErrorKind Unit :=
  (s.val w v).map fun _ => ()

/-- The value of a source operand, resolved and read at the start of the instruction (R169). -/
def State.srcVal (s : State) (w : Width) (src : Src) : Except ErrorKind (BitVec w.bits) :=
  s.val w (s.srcView src)

/-- The value of a destination operand, resolved and read at the start of the instruction (R169). -/
def State.dstVal (s : State) (w : Width) (dst : Dst) : Except ErrorKind (BitVec w.bits) :=
  s.val w (s.dstView dst)

/-- Write a destination operand of an instruction that began in `s0`, in the state `s` its other writes have reached (R89, R167). -/
def State.writeDst (s0 : State) (w : Width) (dst : Dst) (v : BitVec w.bits) (s : State) : Except ErrorKind State :=
  s.writeView w v (s0.dstView dst)

/-- The source and destination name the same register view: the same cell and byte range (R210). -/
def sameView : Src → Dst → Bool
  | .reg r, .reg r' => decide (r = r')
  | .reg _, .mem _ | .imm _, _ | .mem _, _ => false

/-! ## The view accessors (R168) -/

/-- `getUnsigned_k()` of a view's value. -/
def getUnsigned {m : Nat} (k : Nat) (v : BitVec m) : Nat := (v.setWidth k).toNat

/-- `getSigned_k()` of a view's value: truncated when `k ≤ m`, sign-extended otherwise. -/
def getSigned {m : Nat} (k : Nat) (v : BitVec m) : Int := (v.signExtend k).toInt

/-- `signExtendByte(i)`: byte `i` of the value sign-extended to 32 bits. -/
def signExtendByte {m : Nat} (v : BitVec m) (i : Nat) : Byte := (v.signExtend 32).extractLsb' (8 * i) 8

/-- `zeroExtendByte(i)`: byte `i` of the value zero-extended to 32 bits. -/
def zeroExtendByte {m : Nat} (v : BitVec m) (i : Nat) : Byte := (v.setWidth 32).extractLsb' (8 * i) 8

/-- `byteAt(i)` for `i` below the view's length; the defect of R405 is `none`. -/
def byteAt {m : Nat} (v : BitVec m) (i : Nat) : Option Byte :=
  if 8 * i < m then some (v.extractLsb' (8 * i) 8) else none

/-! ## The stack slot (47_data_stack_control.md preamble) -/

/-- `Push32(v)`. -/
def State.push32 (s : State) (v : Word) : Except ErrorKind State :=
  let a := s.cell .esp - 4
  (s.memWrite (addrOf a) .w32 v).map (State.setCell .esp a)

/-- `Pop32()`: the value and the state with `esp` past it. -/
def State.pop32 (s : State) : Except ErrorKind (Word × State) :=
  (s.memRead (addrOf (s.cell .esp)) .w32).map fun v => (v, s.setCell .esp (s.cell .esp + 4))

end Sys2Proof.Machine
end

