-- ==== Sys2Proof/Machine/Flags.lean ====
section
/-! DEFINITION. Every flag computation of the core: packing (10_state.md rules R40 to R44), the common flag functions
(40_execution.md rules R171, R172), the adder and subtractor (41_arithmetic.md rules R200, R201), the logic recipe (R240), the
one-bit rotate and shift steps (44_shift_rotate.md) and the condition predicates (45_conditional.md rules R310 to R326). -/

namespace Sys2Proof.Machine

/-! ## Packing (R42, R43) -/

/-- A flag's bit in the packed word. -/
def flagBit (b : Bool) (pos : Nat) : Nat := b.toNat * 2 ^ pos

/-- `pack() = 2 + Σ_f (f ? 2^pos(f) : 0)` (R42). -/
def Flags.pack (f : Flags) : Word :=
  BitVec.ofNat 32 (2 + flagBit f.cf 0 + flagBit f.pf 2 + flagBit f.af 4 + flagBit f.zf 6 + flagBit f.sf 7 + flagBit f.tf 8 +
    flagBit f.ifl 9 + flagBit f.df 10 + flagBit f.ovf 11 + flagBit f.nt 14 + flagBit f.rf 16 + flagBit f.vm 17 +
    flagBit f.ac 18 + flagBit f.vif 19 + flagBit f.vip 20 + flagBit f.idf 21)

/-- `unpack(u)` (R43). -/
def Flags.unpack (u : Word) : Flags where
  cf := u.getLsbD 0
  pf := u.getLsbD 2
  af := u.getLsbD 4
  zf := u.getLsbD 6
  sf := u.getLsbD 7
  tf := u.getLsbD 8
  ifl := u.getLsbD 9
  df := u.getLsbD 10
  ovf := u.getLsbD 11
  nt := u.getLsbD 14
  rf := u.getLsbD 16
  vm := u.getLsbD 17
  ac := u.getLsbD 18
  vif := u.getLsbD 19
  vip := u.getLsbD 20
  idf := u.getLsbD 21

/-- `sahf`'s low byte: the five flags of bits 7..0 (R367). -/
def Flags.unpackLow (f : Flags) (b : Byte) : Flags :=
  { f with cf := b.getLsbD 0, pf := b.getLsbD 2, af := b.getLsbD 4, zf := b.getLsbD 6, sf := b.getLsbD 7 }

/-! ## Common flag functions -/

/-- The number of set bits (R13). -/
def popcount {n : Nat} (v : BitVec n) : Nat := (List.range n).countP v.getLsbD

/-- Odd parity of the low byte (R41). -/
def parity {n : Nat} (r : BitVec n) : Bool := decide (popcount (r.setWidth 8) % 2 = 1)

/-- `SetZSP(r, w)` (R172). -/
def Flags.setZSP {n : Nat} (f : Flags) (r : BitVec n) : Flags :=
  { f with zf := decide (r = 0#n), sf := r.msb, pf := parity r }

/-- `ClearFlags()` (R171). -/
def Flags.clearScope (f : Flags) : ClearScope → Flags
  | .all16 => Flags.clear
  | .status6 => { f with cf := false, pf := false, af := false, zf := false, sf := false, ovf := false }

/-- `LogicFlags(r, w)` (R240). -/
def Flags.logic {n : Nat} (f : Flags) (scope : ClearScope) (r : BitVec n) : Flags :=
  { f.clearScope scope with cf := false, ovf := false, af := false }.setZSP r

/-! ## The adder and the subtractor -/

/-- The result and carry-chain outcomes of one adder or subtractor step. -/
structure Alu (n : Nat) where
  res : BitVec n
  cf : Bool
  ovf : Bool
  af : Bool

/-- `AddCore(d, s, w)` (R200). -/
def addCore {n : Nat} (d s : BitVec n) : Alu n where
  res := d + s
  cf := decide (2 ^ n ≤ d.toNat + s.toNat)
  ovf := (d.msb == s.msb) && ((d + s).msb != d.msb)
  af := decide (0xF < d.toNat % 16 + s.toNat % 16)

/-- `SubCore(d, s, w)` (R201). -/
def subCore {n : Nat} (d s : BitVec n) : Alu n where
  res := d - s
  cf := decide (d.toNat < s.toNat)
  ovf := (d.msb != s.msb) && ((d - s).msb != d.msb)
  af := decide (d.toNat % 16 < s.toNat % 16)

/-- The two steps of `adc` and `sbb`: the carry first, then the source; CF and OF are OR-ed, AF is step 2's (R203, R205). -/
def twoStep {n : Nat} (core : BitVec n → BitVec n → Alu n) (d c : BitVec n) (source : BitVec n → BitVec n) : Alu n :=
  let one := core d c
  let two := core one.res (source one.res)
  { res := two.res, cf := one.cf || two.cf, ovf := one.ovf || two.ovf, af := two.af }

/-- The six status flags of an adder or subtractor outcome (R202, R204, R206). -/
def Flags.ofAlu {n : Nat} (f : Flags) (a : Alu n) : Flags :=
  { f with cf := a.cf, ovf := a.ovf, af := a.af }.setZSP a.res

/-- The same but for CF, which `inc` and `dec` keep (R207, R208). -/
def Flags.ofAluKeepCf {n : Nat} (f : Flags) (a : Alu n) : Flags :=
  { f with ovf := a.ovf, af := a.af }.setZSP a.res

/-! ## One-bit shift and rotate steps (R281 to R287) -/

/-- `r <- ((r * 2) mod 2^w) + b`: shift left by one and bring `b` into bit 0. -/
def stepLeft {n : Nat} (r : BitVec n) (b : Bool) : BitVec n := (r <<< 1) ||| (BitVec.ofBool b).setWidth n

/-- `r <- (r div 2) + b * 2^(w-1)`: shift right by one and bring `b` into the top bit. -/
def stepRight {n : Nat} (r : BitVec n) (b : Bool) : BitVec n :=
  (r >>> 1) ||| ((BitVec.ofBool b).setWidth n <<< (n - 1))

/-- `rol`'s step on the value and the carry (R281). -/
def rolStep {n : Nat} (p : BitVec n × Bool) : BitVec n × Bool := (stepLeft p.1 p.1.msb, p.1.msb)

/-- `ror`'s step (R282). -/
def rorStep {n : Nat} (p : BitVec n × Bool) : BitVec n × Bool := (stepRight p.1 (p.1.getLsbD 0), p.1.getLsbD 0)

/-- `rcl`'s step (R283). -/
def rclStep {n : Nat} (p : BitVec n × Bool) : BitVec n × Bool := (stepLeft p.1 p.2, p.1.msb)

/-- `rcr`'s step (R284). -/
def rcrStep {n : Nat} (p : BitVec n × Bool) : BitVec n × Bool := (stepRight p.1 p.2, p.1.getLsbD 0)

/-- `shl`'s step (R285). -/
def shlStep {n : Nat} (p : BitVec n × Bool) : BitVec n × Bool := (stepLeft p.1 false, p.1.msb)

/-- `shr`'s step (R286). -/
def shrStep {n : Nat} (p : BitVec n × Bool) : BitVec n × Bool := (stepRight p.1 false, p.1.getLsbD 0)

/-- `sar`'s step with the original sign bit re-inserted (R287). -/
def sarStep {n : Nat} (sgn : Bool) (p : BitVec n × Bool) : BitVec n × Bool := (stepRight p.1 sgn, p.1.getLsbD 0)

/-- `repeat n times`. -/
def iterate {α : Type} (f : α → α) : Nat → α → α
  | 0, a => a
  | n + 1, a => iterate f n (f a)

/-- The top two bits of a right rotate's result, XOR-ed (R282, R284). -/
def topTwoXor {n : Nat} (r : BitVec n) : Bool := r.msb ^^ r.getLsbD (n - 2)

/-! ## Conditions (R310 to R326) -/

/-- The sixteen conditions (R125). -/
inductive Cond
  | o
  | no
  | b
  | ae
  | e
  | ne
  | be
  | a
  | s
  | ns
  | p
  | np
  | l
  | ge
  | le
  | g
deriving DecidableEq, Repr

/-- `Cond(cc)` on the stored flags: one predicate per condition, shared by the three families (R326). -/
def condHolds (f : Flags) : Cond → Bool
  | .o => f.ovf
  | .no => !f.ovf
  | .b => f.cf
  | .ae => !f.cf
  | .e => f.zf
  | .ne => !f.zf
  | .be => f.cf || f.zf
  | .a => !f.cf && !f.zf
  | .s => f.sf
  | .ns => !f.sf
  | .p => f.pf
  | .np => !f.pf
  | .l => f.sf != f.ovf
  | .ge => f.sf == f.ovf
  | .le => f.zf || (f.sf != f.ovf)
  | .g => !f.zf && (f.sf == f.ovf)

end Sys2Proof.Machine
end

