-- ==== Sys2Proof/Machine/Forms.lean ====
section
/-! DEFINITION. The shapes the instruction bodies share (40_execution.md rules R162, R166 to R170): operands are resolved and read
from the state `s` the instruction begins in, and everything commits together or not at all. -/

namespace Sys2Proof.Machine

/-- `d <- val(dst, w); s <- val(src, w)`, then the result of `f` is written to `dst` over the state `f` gives. -/
def binaryOp (w : Width) (src : Src) (dst : Dst) (f : BitVec w.bits → BitVec w.bits → BitVec w.bits × State) (s : State) :
    Result :=
  complete s do
    let d ← s.dstVal w dst
    let x ← s.srcVal w src
    let t ← s.writeDst w dst (f d x).1 (f d x).2
    pure t.advance

/-- `d <- val(dst, w); s <- val(src, w)`, then the state `f` gives: the destination is not written (R206, R244). -/
def compareOp (w : Width) (src : Src) (dst : Dst) (f : BitVec w.bits → BitVec w.bits → State) (s : State) : Result :=
  complete s do
    let d ← s.dstVal w dst
    let x ← s.srcVal w src
    pure (f d x).advance

/-- `d <- val(dst, w)`, then the result of `f` is written to `dst` over the state `f` gives. -/
def unaryOp (w : Width) (dst : Dst) (f : BitVec w.bits → BitVec w.bits × State) (s : State) : Result :=
  complete s do
    let d ← s.dstVal w dst
    let t ← s.writeDst w dst (f d).1 (f d).2
    pure t.advance

/-- `s <- val(src, 32)`, then what `f` computes from it. -/
def sourceOp (src : Src) (f : Word → Except ErrorKind State) (s : State) : Result :=
  complete s do
    let x ← s.srcVal .w32 src
    let t ← f x
    pure t.advance

/-- An instruction without explicit operands whose state `r` advances the pc. -/
def plainOp (r : Except ErrorKind State) (s : State) : Result :=
  complete s (r.map State.advance)

end Sys2Proof.Machine
end

