-- ==== Sys2Proof/Machine/Arith.lean ====
section
/-! DEFINITION. Integer arithmetic: add, adc, sub, sbb, cmp, inc, dec, neg (41_arithmetic.md). -/

namespace Sys2Proof.Machine

/-- `add src, dst` (R202). -/
def execAdd (w : Width) (src : Src) (dst : Dst) (s : State) : Result :=
  binaryOp w src dst (fun d x => ((addCore d x).res, s.withFlags (s.flags.ofAlu (addCore d x)))) s

/-- `c <- (F.CF ? 1 : 0)` at width `n` (R203, R205). -/
def carryIn (n : Nat) (f : Flags) : BitVec n := BitVec.ofNat n f.cf.toNat

/-- The source that step 2 of `adc` and `sbb` reads after step 1 gave `t` (R210). -/
def stepTwoSource {n : Nat} (src : Src) (dst : Dst) (s : State) (x t : BitVec n) : BitVec n :=
  if sameView src dst then s.choose s.cfg.adcSbbAlias x t else x

/-- The free choice of R210 uses a draw. -/
def choseAlias (src : Src) (dst : Dst) (s : State) : State :=
  if sameView src dst then s.chose s.cfg.adcSbbAlias else s

/-- `adc src, dst` (R203, R210). -/
def execAdc (w : Width) (src : Src) (dst : Dst) (s : State) : Result :=
  binaryOp w src dst (fun d x =>
    let a := twoStep addCore d (carryIn w.bits s.flags) (stepTwoSource src dst s x)
    (a.res, (choseAlias src dst s).withFlags (s.flags.ofAlu a))) s

/-- `sub src, dst` (R204). -/
def execSub (w : Width) (src : Src) (dst : Dst) (s : State) : Result :=
  binaryOp w src dst (fun d x => ((subCore d x).res, s.withFlags (s.flags.ofAlu (subCore d x)))) s

/-- `sbb src, dst` (R205, R210). -/
def execSbb (w : Width) (src : Src) (dst : Dst) (s : State) : Result :=
  binaryOp w src dst (fun d x =>
    let a := twoStep subCore d (carryIn w.bits s.flags) (stepTwoSource src dst s x)
    (a.res, (choseAlias src dst s).withFlags (s.flags.ofAlu a))) s

/-- `cmp src, dst` (R206). -/
def execCmp (w : Width) (src : Src) (dst : Dst) (s : State) : Result :=
  compareOp w src dst (fun d x => s.withFlags (s.flags.ofAlu (subCore d x))) s

/-- `inc dst` (R207). -/
def execInc (w : Width) (dst : Dst) (s : State) : Result :=
  unaryOp w dst (fun d => ((addCore d 1).res, s.withFlags (s.flags.ofAluKeepCf (addCore d 1)))) s

/-- `dec dst` (R208). -/
def execDec (w : Width) (dst : Dst) (s : State) : Result :=
  unaryOp w dst (fun d => ((subCore d 1).res, s.withFlags (s.flags.ofAluKeepCf (subCore d 1)))) s

/-- `neg`'s flags: those of `0 - d`, but CF is set unless the result is zero (R209). -/
def negFlags {n : Nat} (f : Flags) (d : BitVec n) : Flags :=
  { f.ofAluKeepCf (subCore 0#n d) with cf := decide ((subCore 0#n d).res ≠ 0#n) }

/-- `neg dst` (R209). -/
def execNeg (w : Width) (dst : Dst) (s : State) : Result :=
  unaryOp w dst (fun d => ((subCore 0#w.bits d).res, s.withFlags (negFlags s.flags d))) s

end Sys2Proof.Machine
end

