-- ==== Sys2Proof/Machine/Conditional.lean ====
section
/-! DEFINITION. Conditional jump, move and set (45_conditional.md): three shared operations over one predicate per condition, and a
meaning per spelling. -/

namespace Sys2Proof.Machine

/-- A label reference: its index, or what `LABEL_MISS_POLICY` says of a label that is not in the table (R327, R368, R403). -/
def withTarget (target : Text) (s : State) (found : Nat → State) : Result :=
  match assoc target s.labels with
  | some k => complete s (.ok (found k))
  | none =>
    match s.cfg.labelMissPolicy with
    | .halt => complete s (.error (.invalidLabel target))
    | .skip => complete s (.ok s.advance)

/-- `j<cc> target` (R327): the label is looked up whether or not the jump is taken. -/
def jumpIf (c : Cond) (target : Text) (s : State) : Result :=
  withTarget target s fun k => if condHolds s.flags c then s.withPc k else s.advance

/-- `cmov<cc> src, dst` (R328): the source is read and a memory destination resolved whatever the condition. -/
def cmovIf (c : Cond) (w : Width) (src : Src) (dst : Dst) (s : State) : Result :=
  complete s do
    let x ← s.srcVal w src
    let _ ← s.checkView w (s.dstView dst)
    (if condHolds s.flags c then s.writeDst w dst x s else .ok s).map State.advance

/-- `set<cc> dst` (R329). -/
def setIf (c : Cond) (dst : Dst) (s : State) : Result :=
  complete s do
    let t ← s.writeDst .w8 dst (if condHolds s.flags c then 1#8 else 0#8) s
    pure t.advance

/-- `jo` (R327). -/
def execJo (target : Text) (s : State) : Result := jumpIf .o target s

/-- `jno` (R327). -/
def execJno (target : Text) (s : State) : Result := jumpIf .no target s

/-- `jb` (R327). -/
def execJb (target : Text) (s : State) : Result := jumpIf .b target s

/-- `jc` (R327). -/
def execJc (target : Text) (s : State) : Result := jumpIf .b target s

/-- `jnae` (R327). -/
def execJnae (target : Text) (s : State) : Result := jumpIf .b target s

/-- `jae` (R327). -/
def execJae (target : Text) (s : State) : Result := jumpIf .ae target s

/-- `jnb` (R327). -/
def execJnb (target : Text) (s : State) : Result := jumpIf .ae target s

/-- `jnc` (R327). -/
def execJnc (target : Text) (s : State) : Result := jumpIf .ae target s

/-- `je` (R327). -/
def execJe (target : Text) (s : State) : Result := jumpIf .e target s

/-- `jz` (R327). -/
def execJz (target : Text) (s : State) : Result := jumpIf .e target s

/-- `jne` (R327). -/
def execJne (target : Text) (s : State) : Result := jumpIf .ne target s

/-- `jnz` (R327). -/
def execJnz (target : Text) (s : State) : Result := jumpIf .ne target s

/-- `jbe` (R327). -/
def execJbe (target : Text) (s : State) : Result := jumpIf .be target s

/-- `jna` (R327). -/
def execJna (target : Text) (s : State) : Result := jumpIf .be target s

/-- `ja` (R327). -/
def execJa (target : Text) (s : State) : Result := jumpIf .a target s

/-- `jnbe` (R327). -/
def execJnbe (target : Text) (s : State) : Result := jumpIf .a target s

/-- `js` (R327). -/
def execJs (target : Text) (s : State) : Result := jumpIf .s target s

/-- `jns` (R327). -/
def execJns (target : Text) (s : State) : Result := jumpIf .ns target s

/-- `jp` (R327). -/
def execJp (target : Text) (s : State) : Result := jumpIf .p target s

/-- `jpe` (R327). -/
def execJpe (target : Text) (s : State) : Result := jumpIf .p target s

/-- `jnp` (R327). -/
def execJnp (target : Text) (s : State) : Result := jumpIf .np target s

/-- `jpo` (R327). -/
def execJpo (target : Text) (s : State) : Result := jumpIf .np target s

/-- `jl` (R327). -/
def execJl (target : Text) (s : State) : Result := jumpIf .l target s

/-- `jnge` (R327). -/
def execJnge (target : Text) (s : State) : Result := jumpIf .l target s

/-- `jge` (R327). -/
def execJge (target : Text) (s : State) : Result := jumpIf .ge target s

/-- `jnl` (R327). -/
def execJnl (target : Text) (s : State) : Result := jumpIf .ge target s

/-- `jle` (R327). -/
def execJle (target : Text) (s : State) : Result := jumpIf .le target s

/-- `jng` (R327). -/
def execJng (target : Text) (s : State) : Result := jumpIf .le target s

/-- `jg` (R327). -/
def execJg (target : Text) (s : State) : Result := jumpIf .g target s

/-- `jnle` (R327). -/
def execJnle (target : Text) (s : State) : Result := jumpIf .g target s

/-- `cmovo` (R328). -/
def execCmovo (w : Width) (src : Src) (dst : Dst) (s : State) : Result := cmovIf .o w src dst s

/-- `cmovno` (R328). -/
def execCmovno (w : Width) (src : Src) (dst : Dst) (s : State) : Result := cmovIf .no w src dst s

/-- `cmovb` (R328). -/
def execCmovb (w : Width) (src : Src) (dst : Dst) (s : State) : Result := cmovIf .b w src dst s

/-- `cmovc` (R328). -/
def execCmovc (w : Width) (src : Src) (dst : Dst) (s : State) : Result := cmovIf .b w src dst s

/-- `cmovnae` (R328). -/
def execCmovnae (w : Width) (src : Src) (dst : Dst) (s : State) : Result := cmovIf .b w src dst s

/-- `cmovae` (R328). -/
def execCmovae (w : Width) (src : Src) (dst : Dst) (s : State) : Result := cmovIf .ae w src dst s

/-- `cmovnb` (R328). -/
def execCmovnb (w : Width) (src : Src) (dst : Dst) (s : State) : Result := cmovIf .ae w src dst s

/-- `cmovnc` (R328). -/
def execCmovnc (w : Width) (src : Src) (dst : Dst) (s : State) : Result := cmovIf .ae w src dst s

/-- `cmove` (R328). -/
def execCmove (w : Width) (src : Src) (dst : Dst) (s : State) : Result := cmovIf .e w src dst s

/-- `cmovz` (R328). -/
def execCmovz (w : Width) (src : Src) (dst : Dst) (s : State) : Result := cmovIf .e w src dst s

/-- `cmovne` (R328). -/
def execCmovne (w : Width) (src : Src) (dst : Dst) (s : State) : Result := cmovIf .ne w src dst s

/-- `cmovnz` (R328). -/
def execCmovnz (w : Width) (src : Src) (dst : Dst) (s : State) : Result := cmovIf .ne w src dst s

/-- `cmovbe` (R328). -/
def execCmovbe (w : Width) (src : Src) (dst : Dst) (s : State) : Result := cmovIf .be w src dst s

/-- `cmovna` (R328). -/
def execCmovna (w : Width) (src : Src) (dst : Dst) (s : State) : Result := cmovIf .be w src dst s

/-- `cmova` (R328). -/
def execCmova (w : Width) (src : Src) (dst : Dst) (s : State) : Result := cmovIf .a w src dst s

/-- `cmovnbe` (R328). -/
def execCmovnbe (w : Width) (src : Src) (dst : Dst) (s : State) : Result := cmovIf .a w src dst s

/-- `cmovs` (R328). -/
def execCmovs (w : Width) (src : Src) (dst : Dst) (s : State) : Result := cmovIf .s w src dst s

/-- `cmovns` (R328). -/
def execCmovns (w : Width) (src : Src) (dst : Dst) (s : State) : Result := cmovIf .ns w src dst s

/-- `cmovp` (R328). -/
def execCmovp (w : Width) (src : Src) (dst : Dst) (s : State) : Result := cmovIf .p w src dst s

/-- `cmovpe` (R328). -/
def execCmovpe (w : Width) (src : Src) (dst : Dst) (s : State) : Result := cmovIf .p w src dst s

/-- `cmovnp` (R328). -/
def execCmovnp (w : Width) (src : Src) (dst : Dst) (s : State) : Result := cmovIf .np w src dst s

/-- `cmovpo` (R328). -/
def execCmovpo (w : Width) (src : Src) (dst : Dst) (s : State) : Result := cmovIf .np w src dst s

/-- `cmovl` (R328). -/
def execCmovl (w : Width) (src : Src) (dst : Dst) (s : State) : Result := cmovIf .l w src dst s

/-- `cmovnge` (R328). -/
def execCmovnge (w : Width) (src : Src) (dst : Dst) (s : State) : Result := cmovIf .l w src dst s

/-- `cmovge` (R328). -/
def execCmovge (w : Width) (src : Src) (dst : Dst) (s : State) : Result := cmovIf .ge w src dst s

/-- `cmovnl` (R328). -/
def execCmovnl (w : Width) (src : Src) (dst : Dst) (s : State) : Result := cmovIf .ge w src dst s

/-- `cmovle` (R328). -/
def execCmovle (w : Width) (src : Src) (dst : Dst) (s : State) : Result := cmovIf .le w src dst s

/-- `cmovng` (R328). -/
def execCmovng (w : Width) (src : Src) (dst : Dst) (s : State) : Result := cmovIf .le w src dst s

/-- `cmovg` (R328). -/
def execCmovg (w : Width) (src : Src) (dst : Dst) (s : State) : Result := cmovIf .g w src dst s

/-- `cmovnle` (R328). -/
def execCmovnle (w : Width) (src : Src) (dst : Dst) (s : State) : Result := cmovIf .g w src dst s

/-- `seto` (R329). -/
def execSeto (dst : Dst) (s : State) : Result := setIf .o dst s

/-- `setno` (R329). -/
def execSetno (dst : Dst) (s : State) : Result := setIf .no dst s

/-- `setb` (R329). -/
def execSetb (dst : Dst) (s : State) : Result := setIf .b dst s

/-- `setc` (R329). -/
def execSetc (dst : Dst) (s : State) : Result := setIf .b dst s

/-- `setnae` (R329). -/
def execSetnae (dst : Dst) (s : State) : Result := setIf .b dst s

/-- `setae` (R329). -/
def execSetae (dst : Dst) (s : State) : Result := setIf .ae dst s

/-- `setnb` (R329). -/
def execSetnb (dst : Dst) (s : State) : Result := setIf .ae dst s

/-- `setnc` (R329). -/
def execSetnc (dst : Dst) (s : State) : Result := setIf .ae dst s

/-- `sete` (R329). -/
def execSete (dst : Dst) (s : State) : Result := setIf .e dst s

/-- `setz` (R329). -/
def execSetz (dst : Dst) (s : State) : Result := setIf .e dst s

/-- `setne` (R329). -/
def execSetne (dst : Dst) (s : State) : Result := setIf .ne dst s

/-- `setnz` (R329). -/
def execSetnz (dst : Dst) (s : State) : Result := setIf .ne dst s

/-- `setbe` (R329). -/
def execSetbe (dst : Dst) (s : State) : Result := setIf .be dst s

/-- `setna` (R329). -/
def execSetna (dst : Dst) (s : State) : Result := setIf .be dst s

/-- `seta` (R329). -/
def execSeta (dst : Dst) (s : State) : Result := setIf .a dst s

/-- `setnbe` (R329). -/
def execSetnbe (dst : Dst) (s : State) : Result := setIf .a dst s

/-- `sets` (R329). -/
def execSets (dst : Dst) (s : State) : Result := setIf .s dst s

/-- `setns` (R329). -/
def execSetns (dst : Dst) (s : State) : Result := setIf .ns dst s

/-- `setp` (R329). -/
def execSetp (dst : Dst) (s : State) : Result := setIf .p dst s

/-- `setpe` (R329). -/
def execSetpe (dst : Dst) (s : State) : Result := setIf .p dst s

/-- `setnp` (R329). -/
def execSetnp (dst : Dst) (s : State) : Result := setIf .np dst s

/-- `setpo` (R329). -/
def execSetpo (dst : Dst) (s : State) : Result := setIf .np dst s

/-- `setl` (R329). -/
def execSetl (dst : Dst) (s : State) : Result := setIf .l dst s

/-- `setnge` (R329). -/
def execSetnge (dst : Dst) (s : State) : Result := setIf .l dst s

/-- `setge` (R329). -/
def execSetge (dst : Dst) (s : State) : Result := setIf .ge dst s

/-- `setnl` (R329). -/
def execSetnl (dst : Dst) (s : State) : Result := setIf .ge dst s

/-- `setle` (R329). -/
def execSetle (dst : Dst) (s : State) : Result := setIf .le dst s

/-- `setng` (R329). -/
def execSetng (dst : Dst) (s : State) : Result := setIf .le dst s

/-- `setg` (R329). -/
def execSetg (dst : Dst) (s : State) : Result := setIf .g dst s

/-- `setnle` (R329). -/
def execSetnle (dst : Dst) (s : State) : Result := setIf .g dst s

end Sys2Proof.Machine
end

