-- ==== Sys2Proof/Machine/Control.lean ====
section
/-! DEFINITION. Control transfer: jmp, call, ret, enter, leave, nop and the exit instruction (47_data_stack_control.md section 4). -/

namespace Sys2Proof.Machine

/-- `jmp target` (R368). -/
def execJmp (target : Text) (s : State) : Result :=
  withTarget target s fun k => s.withPc k

/-- The return address a `call` pushes: the next stream index as a 32-bit word (R369). -/
def returnAddress (s : State) : Word := BitVec.ofNat 32 (s.pc + 1)

/-- `call target` (R369): a missing label is an error before the push under the policy `halt`; under `skip` the push stays. -/
def execCall (target : Text) (s : State) : Result :=
  match assoc target s.labels with
  | some k => complete s ((s.push32 (returnAddress s)).map (State.withPc k))
  | none =>
    match s.cfg.labelMissPolicy with
    | .halt => complete s (.error (.invalidLabel target))
    | .skip => complete s ((s.push32 (returnAddress s)).map State.advance)

/-- The byte count `ret $k` adds to `esp` after the pop; 0 for `ret` (R370). -/
def retBytes : Option (BitVec 16) → Word
  | none => 0
  | some k => k.setWidth 32

/-- `ret` and `ret $k` (R370). -/
def execRet (size : Option (BitVec 16)) (s : State) : Result :=
  complete s (s.pop32.map fun p => (p.2.setCell .esp (p.2.cell .esp + retBytes size)).withPc p.1.toNat)

/-- One push of `enter`: `sp <- sp - 4; MemWrite(sp, 4, v)` (R371); `esp` itself is written at the end. -/
def enterPush (v : Word) (p : State × Word) : Except ErrorKind (State × Word) :=
  (p.1.memWrite (addrOf (p.2 - 4)) .w32 v).map fun t => (t, p.2 - 4)

/-- The display copies of `enter`: for each, `e <- e - 4` and the word at `e` is pushed (R371; log 9). -/
def enterCopies : Nat → Word → State × Word → Except ErrorKind (State × Word)
  | 0, _, p => .ok p
  | n + 1, e, p => do
    let v ← p.1.memRead (addrOf (e - 4)) .w32
    let q ← enterPush v p
    enterCopies n (e - 4) q

/-- The pushes of `enter` above the saved `ebp`, for level `l` and frame pointer `frame` (R371). -/
def enterDisplay (l : Nat) (e frame : Word) (p : State × Word) : Except ErrorKind (State × Word) :=
  match l with
  | 0 => .ok p
  | k + 1 => do
    let q ← enterCopies k e p
    enterPush frame q

/-- `enter $size` and `enter $size, $level` (R371). -/
def execEnter (size : BitVec 16) (level : Option Byte) (s : State) : Result :=
  plainOp (do
    let frame := s.cell .esp - 4
    let p ← enterPush (s.cell .ebp) (s, s.cell .esp)
    let q ← enterDisplay ((level.getD 0).toNat % 32) (s.cell .ebp) frame p
    pure ((q.1.setCell .ebp frame).setCell .esp (q.2 - size.setWidth 32))) s

/-- `leave` (R372). -/
def execLeave (s : State) : Result :=
  plainOp ((s.memRead (addrOf (s.cell .ebp)) .w32).map fun v =>
    (s.setCell .esp (s.cell .ebp + 4)).setCell .ebp v) s

/-- `nop` (R373). -/
def execNop (s : State) : Result := plainOp (.ok s) s

/-- The exit instruction (R374): it requests the exit, which halts the run once it has committed (R162). -/
def execHlt (s : State) : Result := plainOp (.ok (s.withExit true)) s

end Sys2Proof.Machine
end

