-- ==== Sys2Proof/Machine/Data.lean ====
section
/-! DEFINITION. Data movement, the stack and flag transfer: mov, push, pop, pushf, popf, lahf, sahf (47_data_stack_control.md
sections 1 to 3). -/

namespace Sys2Proof.Machine

/-- The flag clear before `mov` (R171, R360). -/
def movFlags (s : State) : Flags :=
  if s.cfg.clearBeforeMov then s.flags.clearScope s.cfg.clearScope else s.flags

/-- `mov src, dst` (R360). -/
def execMov (w : Width) (src : Src) (dst : Dst) (s : State) : Result :=
  complete s do
    let x ← s.srcVal w src
    let t ← s.writeDst w dst x (s.withFlags (movFlags s))
    pure t.advance

/-- Push the value `x` of the operand; `push %esp` stores the value `PUSH_POP_ESP` chooses (R363). -/
def pushValue (src : Src) (s : State) (x : Word) : Except ErrorKind State :=
  if src = .reg (.r32 .esp) then
    (s.push32 (s.choose s.cfg.pushPopEsp x (x - 4))).map (State.chose s.cfg.pushPopEsp)
  else s.push32 x

/-- `push src` (R361). -/
def execPush (src : Src) (s : State) : Result :=
  sourceOp src (pushValue src s) s

/-- Write the word `pop` loaded: `p` holds it and the state with `esp` past it. `pop %esp` leaves in `esp` the value `PUSH_POP_ESP`
chooses (R363). -/
def popInto (dst : Dst) (s : State) (p : Word × State) : Except ErrorKind State :=
  if dst = .reg (.r32 .esp) then
    .ok ((s.setCell .esp (s.choose s.cfg.pushPopEsp p.1 (p.1 + 4))).chose s.cfg.pushPopEsp)
  else s.writeDst .w32 dst p.1 p.2

/-- `pop dst` (R362): the destination was resolved before `esp` moved (R89). -/
def execPop (dst : Dst) (s : State) : Result :=
  plainOp (s.pop32 >>= popInto dst s) s

/-- Push the packed flag word (R364). -/
def pushFlags (s : State) : Result := plainOp (s.push32 s.flags.pack) s

/-- `pushf` (R364). -/
def execPushf (s : State) : Result := pushFlags s

/-- `pushfl`, an alias of `pushf` (R364). -/
def execPushfl (s : State) : Result := pushFlags s

/-- `pushfd`, an alias of `pushf` (R364). -/
def execPushfd (s : State) : Result := pushFlags s

/-- Pop the packed flag word into all sixteen flags (R365). -/
def popFlags (s : State) : Result :=
  plainOp (s.pop32.map fun p => p.2.withFlags (Flags.unpack p.1)) s

/-- `popf` (R365). -/
def execPopf (s : State) : Result := popFlags s

/-- `popfl`, an alias of `popf` (R365). -/
def execPopfl (s : State) : Result := popFlags s

/-- `popfd`, an alias of `popf` (R365). -/
def execPopfd (s : State) : Result := popFlags s

/-- `lahf`: `x[ah] <- pack()[7:0]` (R366). -/
def execLahf (s : State) : Result :=
  plainOp (.ok (s.writeReg (.hi8 .a) (s.flags.pack.extractLsb' 0 8))) s

/-- `sahf` (R367). -/
def execSahf (s : State) : Result :=
  plainOp (.ok (s.withFlags (s.flags.unpackLow (s.readReg (.hi8 .a))))) s

end Sys2Proof.Machine
end

