-- ==== Sys2Proof/Machine/Logic.lean ====
section
/-! DEFINITION. Bitwise logic: and, or, xor, test, not (42_logic.md). -/

namespace Sys2Proof.Machine

/-- The state with the flags of a logic result (R240). -/
def logicFlags {n : Nat} (s : State) (r : BitVec n) : State :=
  s.withFlags (s.flags.logic s.cfg.clearScope r)

/-- `and src, dst` (R241). -/
def execAnd (w : Width) (src : Src) (dst : Dst) (s : State) : Result :=
  binaryOp w src dst (fun d x => (d &&& x, logicFlags s (d &&& x))) s

/-- `or src, dst` (R242). -/
def execOr (w : Width) (src : Src) (dst : Dst) (s : State) : Result :=
  binaryOp w src dst (fun d x => (d ||| x, logicFlags s (d ||| x))) s

/-- `xor src, dst` (R243). -/
def execXor (w : Width) (src : Src) (dst : Dst) (s : State) : Result :=
  binaryOp w src dst (fun d x => (d ^^^ x, logicFlags s (d ^^^ x))) s

/-- `test src, dst` (R244). -/
def execTest (w : Width) (src : Src) (dst : Dst) (s : State) : Result :=
  compareOp w src dst (fun d x => logicFlags s (d &&& x)) s

/-- `not dst` (R245): no flag is touched. -/
def execNot (w : Width) (dst : Dst) (s : State) : Result :=
  unaryOp w dst (fun d => (~~~d, s)) s

end Sys2Proof.Machine
end

