-- ==== Sys2Proof/Machine/MulDiv.lean ====
section
/-! DEFINITION. Multiply and divide: mul, imul, div, idiv (43_multiply_divide.md). Products and quotients are computed over the
integers and narrowed at the end. -/

namespace Sys2Proof.Machine

/-- `eax` and `edx` replaced. -/
def setEaxEdx (eax edx : Word) (s : State) : State := (s.setCell .eax eax).setCell .edx edx

/-- The flags of `mul`: CF = OF = the high half is not zero; ZF, SF, PF from the low half; AF `any` (R260). -/
def mulFlags (s : State) (lo hi : Word) : Flags :=
  { s.flags with cf := decide (hi ≠ 0#32), ovf := decide (hi ≠ 0#32), af := s.draw 0 }.setZSP lo

/-- `mul src` (R260). -/
def execMul (src : Src) (s : State) : Result :=
  sourceOp src (fun x =>
    let p := (s.cell .eax).toNat * x.toNat
    let lo := BitVec.ofNat 32 p
    let hi := BitVec.ofNat 32 (p / 2 ^ 32)
    .ok (((setEaxEdx lo hi s).withFlags (mulFlags s lo hi)).drew 1)) s

/-- The flags of both `imul` forms: CF = OF = the sign-extended low half is not the 64-bit product; ZF, SF, PF, AF `any`
(R261, R262). -/
def imulFlags (s : State) (p : Int) : Flags :=
  let c := decide ((BitVec.ofInt 32 p).signExtend 64 ≠ BitVec.ofInt 64 p)
  { s.flags with cf := c, ovf := c, zf := s.draw 0, sf := s.draw 1, pf := s.draw 2, af := s.draw 3 }

/-- The one-operand `imul src` into `edx:eax` (R261). -/
def imulOne (s : State) (x : Word) : State :=
  let p := (s.cell .eax).toInt * x.toInt
  ((setEaxEdx ((BitVec.ofInt 64 p).extractLsb' 0 32) ((BitVec.ofInt 64 p).extractLsb' 32 32) s).withFlags
    (imulFlags s p)).drew 4

/-- The two-operand `imul src, dst` (R262). -/
def imulTwo (s : State) (x : Word) (c : Cell) : State :=
  let p := (s.cell c).toInt * x.toInt
  ((s.setCell c (BitVec.ofInt 32 p)).withFlags (imulFlags s p)).drew 4

/-- `imul src` and `imul src, dst` (R261, R262). -/
def execImul (src : Src) (dst : Option Cell) (s : State) : Result :=
  sourceOp src (fun x =>
    match dst with
    | none => .ok (imulOne s x)
    | some c => .ok (imulTwo s x c)) s

/-- After a division all six status flags are `any` (R263, R264). -/
def divFlags (s : State) : Flags :=
  { s.flags with cf := s.draw 0, pf := s.draw 1, af := s.draw 2, zf := s.draw 3, sf := s.draw 4, ovf := s.draw 5 }

/-- A completed division (R263, R264). -/
def divide (q m : Word) (s : State) : State := ((setEaxEdx q m s).withFlags (divFlags s)).drew 6

/-- The unsigned dividend `edx:eax` (R263). -/
def dividend (s : State) : BitVec 64 := s.cell .edx ++ s.cell .eax

/-- `div src` (R263). -/
def execDiv (src : Src) (s : State) : Result :=
  sourceOp src (fun x =>
    let n := (dividend s).toNat
    if x.toNat = 0 then .error .divisionByZero
    else if 2 ^ 32 ≤ n / x.toNat then .error .quotientOverflow
    else .ok (divide (BitVec.ofNat 32 (n / x.toNat)) (BitVec.ofNat 32 (n % x.toNat)) s)) s

/-- `idiv src` (R264): truncated toward zero, the remainder has the dividend's sign. -/
def execIdiv (src : Src) (s : State) : Result :=
  sourceOp src (fun x =>
    let n := (dividend s).toInt
    let q := n.tdiv x.toInt
    if x.toInt = 0 then .error .divisionByZero
    else if q < -(2 ^ 31) ∨ 2 ^ 31 - 1 < q then .error .quotientOverflow
    else .ok (divide (BitVec.ofInt 32 q) (BitVec.ofInt 32 (n - q * x.toInt)) s)) s

end Sys2Proof.Machine
end

