-- ==== Sys2Proof/Machine/Shift.lean ====
section
/-! DEFINITION. Shifts and rotates: rol, ror, rcl, rcr, shl, sal, shr, sar, as the bit-stepped loops of 44_shift_rotate.md. -/

namespace Sys2Proof.Machine

/-- The count operand's value: 1 for the F1 form, a Literal, or `x[cl]` (R280). -/
def countValue (s : State) : Count → Byte
  | .one => 1
  | .imm k => k
  | .cl => s.readReg (.lo8 .ecx)

/-- The effective count of a rotate (R280). -/
def rotateCount (s : State) (c : Count) : Nat := (countValue s c &&& 0x1F).toNat

/-- The effective count of a shift (R280). -/
def shiftCount (s : State) (c : Count) : Nat := (countValue s c &&& s.cfg.shiftCountMask).toNat

/-- OF after `n` steps: kept for 0, the formula for 1, `any` from 2 on (R281 to R287). -/
def overflowAfter (s : State) (n k : Nat) (formula : Bool) : Bool :=
  if n = 0 then s.flags.ovf else if n = 1 then formula else s.draw k

/-- The state of a rotate after `n` steps: CF the last bit, OF as said, one draw when OF is `any` (R281 to R284). -/
def rotateState (s : State) (n : Nat) (cf formula : Bool) : State :=
  (s.withFlags { s.flags with cf := cf, ovf := overflowAfter s n 0 formula }).drew (if 2 ≤ n then 1 else 0)

/-- A rotate: `n` steps from the operand and CF; `formula` is OF for one step, from the result and the new CF. -/
def rotateOp (w : Width) (count : Count) (dst : Dst) (step : BitVec w.bits × Bool → BitVec w.bits × Bool)
    (formula : BitVec w.bits → Bool → Bool) (s : State) : Result :=
  unaryOp w dst (fun d =>
    let n := rotateCount s count
    let p := iterate step n (d, s.flags.cf)
    (p.1, rotateState s n p.2 (formula p.1 p.2))) s

/-- The flags of a shift after `n` steps: unchanged for 0; else CF the last bit out, SF, ZF, PF, AF `any` (R285 to R287). -/
def shiftFlags (s : State) (n : Nat) (cf formula : Bool) : Flags :=
  if n = 0 then s.flags
  else
    { s.flags with
      cf := cf, sf := s.draw 0, zf := s.draw 1, pf := s.draw 2, af := s.draw 3, ovf := overflowAfter s n 4 formula }

/-- The state of a shift after `n` steps: four draws, and a fifth when OF is `any`. -/
def shiftState (s : State) (n : Nat) (cf formula : Bool) : State :=
  (s.withFlags (shiftFlags s n cf formula)).drew (if n = 0 then 0 else if n = 1 then 4 else 5)

/-- A shift: `n` steps from the operand and CF; `formula` is OF for one step, from the operand, the result and the new CF. -/
def shiftOp (w : Width) (count : Count) (dst : Dst) (step : BitVec w.bits → BitVec w.bits × Bool → BitVec w.bits × Bool)
    (formula : BitVec w.bits → BitVec w.bits → Bool → Bool) (s : State) : Result :=
  unaryOp w dst (fun d =>
    let n := shiftCount s count
    let p := iterate (step d) n (d, s.flags.cf)
    (p.1, shiftState s n p.2 (formula d p.1 p.2))) s

/-- `rol` (R281). -/
def execRol (w : Width) (count : Count) (dst : Dst) (s : State) : Result :=
  rotateOp w count dst rolStep (fun r c => c ^^ r.msb) s

/-- `ror` (R282). -/
def execRor (w : Width) (count : Count) (dst : Dst) (s : State) : Result :=
  rotateOp w count dst rorStep (fun r _ => topTwoXor r) s

/-- `rcl` (R283). -/
def execRcl (w : Width) (count : Count) (dst : Dst) (s : State) : Result :=
  rotateOp w count dst rclStep (fun r c => c ^^ r.msb) s

/-- `rcr` (R284). -/
def execRcr (w : Width) (count : Count) (dst : Dst) (s : State) : Result :=
  rotateOp w count dst rcrStep (fun r _ => topTwoXor r) s

/-- `shl` (R285). -/
def execShl (w : Width) (count : Count) (dst : Dst) (s : State) : Result :=
  shiftOp w count dst (fun _ => shlStep) (fun _ r c => r.msb ^^ c) s

/-- `sal`, the synonym of `shl` (R285). -/
def execSal (w : Width) (count : Count) (dst : Dst) (s : State) : Result :=
  shiftOp w count dst (fun _ => shlStep) (fun _ r c => r.msb ^^ c) s

/-- `shr` (R286). -/
def execShr (w : Width) (count : Count) (dst : Dst) (s : State) : Result :=
  shiftOp w count dst (fun _ => shrStep) (fun d _ _ => d.msb) s

/-- `sar` (R287). -/
def execSar (w : Width) (count : Count) (dst : Dst) (s : State) : Result :=
  shiftOp w count dst (fun d => sarStep d.msb) (fun _ _ _ => false) s

end Sys2Proof.Machine
end

