-- ==== Sys2Proof/Machine/StringOps.lean ====
section
/-! DEFINITION. String primitives (46_string.md): one element per instruction, through `esi` and `edi`. -/

namespace Sys2Proof.Machine

/-- The pointer step in bytes (R340). -/
def pointerStep (cfg : Config) (w : Width) : Nat :=
  match cfg.stringStep with
  | .byte => 1
  | .width => w.bytes

/-- `Advance(p)` (R340). -/
def advancePtr (c : Cell) (w : Width) (s : State) : State :=
  let step := BitVec.ofNat 32 (pointerStep s.cfg w)
  s.setCell c (if s.flags.df then s.cell c - step else s.cell c + step)

/-- The accumulator view of a width: `al`, `ax` or `eax` (R37, R343 to R345). -/
def accReg : Width → Reg
  | .w8 => .lo8 .eax
  | .w16 => .r16 .eax
  | .w32 => .r32 .eax

/-- `x[acc]`. -/
def accValue (w : Width) (s : State) : BitVec w.bits := (s.readReg (accReg w)).setWidth w.bits

/-- `x[acc] <- v`. -/
def setAcc (w : Width) (v : BitVec w.bits) (s : State) : State := s.writeReg (accReg w) (v.setWidth _)

/-- The element at `esi` or `edi`. -/
def element (c : Cell) (w : Width) (s : State) : Except ErrorKind (BitVec w.bits) := s.memRead (addrOf (s.cell c)) w

/-- `cmps` (R341): `[esi] - [edi]`. -/
def cmpsOp (w : Width) (s : State) : Result :=
  complete s do
    let a ← element .esi w s
    let b ← element .edi w s
    pure (advancePtr .edi w (advancePtr .esi w (s.withFlags (s.flags.ofAlu (subCore a b))))).advance

/-- `movs` (R342): the source element is read whole before the destination is written. -/
def movsOp (w : Width) (s : State) : Result :=
  complete s do
    let v ← element .esi w s
    let t ← s.memWrite (addrOf (s.cell .edi)) w v
    pure (advancePtr .edi w (advancePtr .esi w t)).advance

/-- `scas` (R343): `acc - [edi]`. -/
def scasOp (w : Width) (s : State) : Result :=
  complete s do
    let b ← element .edi w s
    pure (advancePtr .edi w (s.withFlags (s.flags.ofAlu (subCore (accValue w s) b)))).advance

/-- `stos` (R344). -/
def stosOp (w : Width) (s : State) : Result :=
  complete s do
    let t ← s.memWrite (addrOf (s.cell .edi)) w (accValue w s)
    pure (advancePtr .edi w t).advance

/-- `lods` (R345). -/
def lodsOp (w : Width) (s : State) : Result :=
  complete s do
    let v ← element .esi w s
    pure (advancePtr .esi w (setAcc w v s)).advance

/-- `cmpsb` (R341). -/
def execCmpsb (s : State) : Result := cmpsOp .w8 s

/-- `cmpsw` (R341). -/
def execCmpsw (s : State) : Result := cmpsOp .w16 s

/-- `cmpsd` (R341). -/
def execCmpsd (s : State) : Result := cmpsOp .w32 s

/-- `cmpsl`, the alias of `cmpsd` (R341). -/
def execCmpsl (s : State) : Result := cmpsOp .w32 s

/-- `movsb` (R342). -/
def execMovsb (s : State) : Result := movsOp .w8 s

/-- `movsw` (R342). -/
def execMovsw (s : State) : Result := movsOp .w16 s

/-- `movsd` (R342). -/
def execMovsd (s : State) : Result := movsOp .w32 s

/-- `movsl`, the alias of `movsd` (R342). -/
def execMovsl (s : State) : Result := movsOp .w32 s

/-- `scasb` (R343). -/
def execScasb (s : State) : Result := scasOp .w8 s

/-- `scasw` (R343). -/
def execScasw (s : State) : Result := scasOp .w16 s

/-- `scasd` (R343). -/
def execScasd (s : State) : Result := scasOp .w32 s

/-- `scasl`, the alias of `scasd` (R343). -/
def execScasl (s : State) : Result := scasOp .w32 s

/-- `stosb` (R344). -/
def execStosb (s : State) : Result := stosOp .w8 s

/-- `stosw` (R344). -/
def execStosw (s : State) : Result := stosOp .w16 s

/-- `stosd` (R344). -/
def execStosd (s : State) : Result := stosOp .w32 s

/-- `stosl`, the alias of `stosd` (R344). -/
def execStosl (s : State) : Result := stosOp .w32 s

/-- `lodsb` (R345). -/
def execLodsb (s : State) : Result := lodsOp .w8 s

/-- `lodsw` (R345). -/
def execLodsw (s : State) : Result := lodsOp .w16 s

/-- `lodsd` (R345). -/
def execLodsd (s : State) : Result := lodsOp .w32 s

/-- `lodsl`, the alias of `lodsd` (R345). -/
def execLodsl (s : State) : Result := lodsOp .w32 s

end Sys2Proof.Machine
end

