-- ==== Sys2Proof/Machine/Dispatch.lean ====
section
/-! DEFINITION. One arm per constructor of Instr: each calls its meaning. -/

namespace Sys2Proof.Machine

def exec (i : Instr) (s : State) : Host.Outcome State Fault Refusal :=
  match i with
  | .add w src dst => Sys2Proof.Machine.execAdd w src dst s
  | .adc w src dst => Sys2Proof.Machine.execAdc w src dst s
  | .sub w src dst => Sys2Proof.Machine.execSub w src dst s
  | .sbb w src dst => Sys2Proof.Machine.execSbb w src dst s
  | .cmp w src dst => Sys2Proof.Machine.execCmp w src dst s
  | .inc w dst => Sys2Proof.Machine.execInc w dst s
  | .dec w dst => Sys2Proof.Machine.execDec w dst s
  | .neg w dst => Sys2Proof.Machine.execNeg w dst s
  | .and w src dst => Sys2Proof.Machine.execAnd w src dst s
  | .or w src dst => Sys2Proof.Machine.execOr w src dst s
  | .xor w src dst => Sys2Proof.Machine.execXor w src dst s
  | .test w src dst => Sys2Proof.Machine.execTest w src dst s
  | .not w dst => Sys2Proof.Machine.execNot w dst s
  | .mul src => Sys2Proof.Machine.execMul src s
  | .imul src dst => Sys2Proof.Machine.execImul src dst s
  | .div src => Sys2Proof.Machine.execDiv src s
  | .idiv src => Sys2Proof.Machine.execIdiv src s
  | .rol w count dst => Sys2Proof.Machine.execRol w count dst s
  | .ror w count dst => Sys2Proof.Machine.execRor w count dst s
  | .rcl w count dst => Sys2Proof.Machine.execRcl w count dst s
  | .rcr w count dst => Sys2Proof.Machine.execRcr w count dst s
  | .shl w count dst => Sys2Proof.Machine.execShl w count dst s
  | .sal w count dst => Sys2Proof.Machine.execSal w count dst s
  | .shr w count dst => Sys2Proof.Machine.execShr w count dst s
  | .sar w count dst => Sys2Proof.Machine.execSar w count dst s
  | .jo target => Sys2Proof.Machine.execJo target s
  | .jno target => Sys2Proof.Machine.execJno target s
  | .jb target => Sys2Proof.Machine.execJb target s
  | .jc target => Sys2Proof.Machine.execJc target s
  | .jnae target => Sys2Proof.Machine.execJnae target s
  | .jae target => Sys2Proof.Machine.execJae target s
  | .jnb target => Sys2Proof.Machine.execJnb target s
  | .jnc target => Sys2Proof.Machine.execJnc target s
  | .je target => Sys2Proof.Machine.execJe target s
  | .jz target => Sys2Proof.Machine.execJz target s
  | .jne target => Sys2Proof.Machine.execJne target s
  | .jnz target => Sys2Proof.Machine.execJnz target s
  | .jbe target => Sys2Proof.Machine.execJbe target s
  | .jna target => Sys2Proof.Machine.execJna target s
  | .ja target => Sys2Proof.Machine.execJa target s
  | .jnbe target => Sys2Proof.Machine.execJnbe target s
  | .js target => Sys2Proof.Machine.execJs target s
  | .jns target => Sys2Proof.Machine.execJns target s
  | .jp target => Sys2Proof.Machine.execJp target s
  | .jpe target => Sys2Proof.Machine.execJpe target s
  | .jnp target => Sys2Proof.Machine.execJnp target s
  | .jpo target => Sys2Proof.Machine.execJpo target s
  | .jl target => Sys2Proof.Machine.execJl target s
  | .jnge target => Sys2Proof.Machine.execJnge target s
  | .jge target => Sys2Proof.Machine.execJge target s
  | .jnl target => Sys2Proof.Machine.execJnl target s
  | .jle target => Sys2Proof.Machine.execJle target s
  | .jng target => Sys2Proof.Machine.execJng target s
  | .jg target => Sys2Proof.Machine.execJg target s
  | .jnle target => Sys2Proof.Machine.execJnle target s
  | .cmovo w src dst => Sys2Proof.Machine.execCmovo w src dst s
  | .cmovno w src dst => Sys2Proof.Machine.execCmovno w src dst s
  | .cmovb w src dst => Sys2Proof.Machine.execCmovb w src dst s
  | .cmovc w src dst => Sys2Proof.Machine.execCmovc w src dst s
  | .cmovnae w src dst => Sys2Proof.Machine.execCmovnae w src dst s
  | .cmovae w src dst => Sys2Proof.Machine.execCmovae w src dst s
  | .cmovnb w src dst => Sys2Proof.Machine.execCmovnb w src dst s
  | .cmovnc w src dst => Sys2Proof.Machine.execCmovnc w src dst s
  | .cmove w src dst => Sys2Proof.Machine.execCmove w src dst s
  | .cmovz w src dst => Sys2Proof.Machine.execCmovz w src dst s
  | .cmovne w src dst => Sys2Proof.Machine.execCmovne w src dst s
  | .cmovnz w src dst => Sys2Proof.Machine.execCmovnz w src dst s
  | .cmovbe w src dst => Sys2Proof.Machine.execCmovbe w src dst s
  | .cmovna w src dst => Sys2Proof.Machine.execCmovna w src dst s
  | .cmova w src dst => Sys2Proof.Machine.execCmova w src dst s
  | .cmovnbe w src dst => Sys2Proof.Machine.execCmovnbe w src dst s
  | .cmovs w src dst => Sys2Proof.Machine.execCmovs w src dst s
  | .cmovns w src dst => Sys2Proof.Machine.execCmovns w src dst s
  | .cmovp w src dst => Sys2Proof.Machine.execCmovp w src dst s
  | .cmovpe w src dst => Sys2Proof.Machine.execCmovpe w src dst s
  | .cmovnp w src dst => Sys2Proof.Machine.execCmovnp w src dst s
  | .cmovpo w src dst => Sys2Proof.Machine.execCmovpo w src dst s
  | .cmovl w src dst => Sys2Proof.Machine.execCmovl w src dst s
  | .cmovnge w src dst => Sys2Proof.Machine.execCmovnge w src dst s
  | .cmovge w src dst => Sys2Proof.Machine.execCmovge w src dst s
  | .cmovnl w src dst => Sys2Proof.Machine.execCmovnl w src dst s
  | .cmovle w src dst => Sys2Proof.Machine.execCmovle w src dst s
  | .cmovng w src dst => Sys2Proof.Machine.execCmovng w src dst s
  | .cmovg w src dst => Sys2Proof.Machine.execCmovg w src dst s
  | .cmovnle w src dst => Sys2Proof.Machine.execCmovnle w src dst s
  | .seto dst => Sys2Proof.Machine.execSeto dst s
  | .setno dst => Sys2Proof.Machine.execSetno dst s
  | .setb dst => Sys2Proof.Machine.execSetb dst s
  | .setc dst => Sys2Proof.Machine.execSetc dst s
  | .setnae dst => Sys2Proof.Machine.execSetnae dst s
  | .setae dst => Sys2Proof.Machine.execSetae dst s
  | .setnb dst => Sys2Proof.Machine.execSetnb dst s
  | .setnc dst => Sys2Proof.Machine.execSetnc dst s
  | .sete dst => Sys2Proof.Machine.execSete dst s
  | .setz dst => Sys2Proof.Machine.execSetz dst s
  | .setne dst => Sys2Proof.Machine.execSetne dst s
  | .setnz dst => Sys2Proof.Machine.execSetnz dst s
  | .setbe dst => Sys2Proof.Machine.execSetbe dst s
  | .setna dst => Sys2Proof.Machine.execSetna dst s
  | .seta dst => Sys2Proof.Machine.execSeta dst s
  | .setnbe dst => Sys2Proof.Machine.execSetnbe dst s
  | .sets dst => Sys2Proof.Machine.execSets dst s
  | .setns dst => Sys2Proof.Machine.execSetns dst s
  | .setp dst => Sys2Proof.Machine.execSetp dst s
  | .setpe dst => Sys2Proof.Machine.execSetpe dst s
  | .setnp dst => Sys2Proof.Machine.execSetnp dst s
  | .setpo dst => Sys2Proof.Machine.execSetpo dst s
  | .setl dst => Sys2Proof.Machine.execSetl dst s
  | .setnge dst => Sys2Proof.Machine.execSetnge dst s
  | .setge dst => Sys2Proof.Machine.execSetge dst s
  | .setnl dst => Sys2Proof.Machine.execSetnl dst s
  | .setle dst => Sys2Proof.Machine.execSetle dst s
  | .setng dst => Sys2Proof.Machine.execSetng dst s
  | .setg dst => Sys2Proof.Machine.execSetg dst s
  | .setnle dst => Sys2Proof.Machine.execSetnle dst s
  | .cmpsb => Sys2Proof.Machine.execCmpsb s
  | .cmpsw => Sys2Proof.Machine.execCmpsw s
  | .cmpsd => Sys2Proof.Machine.execCmpsd s
  | .movsb => Sys2Proof.Machine.execMovsb s
  | .movsw => Sys2Proof.Machine.execMovsw s
  | .movsd => Sys2Proof.Machine.execMovsd s
  | .scasb => Sys2Proof.Machine.execScasb s
  | .scasw => Sys2Proof.Machine.execScasw s
  | .scasd => Sys2Proof.Machine.execScasd s
  | .stosb => Sys2Proof.Machine.execStosb s
  | .stosw => Sys2Proof.Machine.execStosw s
  | .stosd => Sys2Proof.Machine.execStosd s
  | .lodsb => Sys2Proof.Machine.execLodsb s
  | .lodsw => Sys2Proof.Machine.execLodsw s
  | .lodsd => Sys2Proof.Machine.execLodsd s
  | .mov w src dst => Sys2Proof.Machine.execMov w src dst s
  | .push src => Sys2Proof.Machine.execPush src s
  | .pop dst => Sys2Proof.Machine.execPop dst s
  | .pushf => Sys2Proof.Machine.execPushf s
  | .popf => Sys2Proof.Machine.execPopf s
  | .lahf => Sys2Proof.Machine.execLahf s
  | .sahf => Sys2Proof.Machine.execSahf s
  | .jmp target => Sys2Proof.Machine.execJmp target s
  | .call target => Sys2Proof.Machine.execCall target s
  | .ret size => Sys2Proof.Machine.execRet size s
  | .enter size level => Sys2Proof.Machine.execEnter size level s
  | .leave => Sys2Proof.Machine.execLeave s
  | .nop => Sys2Proof.Machine.execNop s
  | .hlt => Sys2Proof.Machine.execHlt s
  | .pushfl => Sys2Proof.Machine.execPushfl s
  | .pushfd => Sys2Proof.Machine.execPushfd s
  | .popfl => Sys2Proof.Machine.execPopfl s
  | .popfd => Sys2Proof.Machine.execPopfd s
  | .cmpsl => Sys2Proof.Machine.execCmpsl s
  | .movsl => Sys2Proof.Machine.execMovsl s
  | .scasl => Sys2Proof.Machine.execScasl s
  | .stosl => Sys2Proof.Machine.execStosl s
  | .lodsl => Sys2Proof.Machine.execLodsl s

end Sys2Proof.Machine
end

