-- ==== Sys2Proof/Machine/Step.lean ====
section
/-! DEFINITION. The step of the core (40_execution.md rules R160 to R164) and the placing of one instruction word. -/

namespace Sys2Proof.Machine

/-- Run one line of the stream (R162 to R164): decode and check, then execute. -/
def stepLine (s : State) : Line → Host.Outcome State Fault Refusal
  | .malformed => .next (s.raise .malformedInstructionText)
  | .nop => .next s.advance
  | .directive => .next s.advance
  | .instr r =>
    match decode s.cfg r with
    | .error e => .next (s.raise e)
    | .ok i => exec i s

/-- One step (R160, R162): the resolving pass, then one line a step, until the status is Halted, which no step leaves. -/
def step (s : State) : Host.Outcome State Fault Refusal :=
  match s.status with
  | .halted r => .fault (.halted r)
  | .resolving => .next s.resolve
  | .running =>
    match s.fetch with
    | none => .next s.endOfStream
    | some l => stepLine s l

/-- Place one table word at the pc as the core's next line, and say that the core is Running, so that the next step runs it; its
empty label, if it has one, names that line (logs 8, 14). -/
def State.withFetchWord (s : State) (nbits w : Nat) : State :=
  { s with
    stream := s.stream.take s.pc ++ List.replicate (s.pc - s.stream.length) .nop ++
      .instr (recordOfWord nbits w) :: s.stream.drop (s.pc + 1)
    labels := addLabel s.labels [] s.pc
    status := .running }

end Sys2Proof.Machine
end

