-- ==== Sys2Proof/Safety.lean ====
section
/-! DEFINITION. The terms claims about the core are stated in: the invariant of a run, what each instruction may change (its frame),
results and flags in plain arithmetic, the reference loops of the shifts and rotates, and which constructors are the spellings of
which operation. -/

namespace Sys2Proof.Machine

/-! ## The invariant of a run -/

/-- What every state of a run satisfies: memory canonical and inside `[0, MEM_SIZE)` (R80); once the resolving pass has run, the
stream and labels are the program's (R53, R54, R161); the exit flag is set exactly when the run halted by the exit instruction
(R52, R162); a run that halted at the end of its stream has `pc ≥ N`, and one that halted on an error has its pc at a line
(R162, R175). -/
structure State.Inv (s : State) : Prop where
  memCanonical : Memory.wf s.mem = true
  memInside : Memory.within s.cfg.memSize s.mem = true
  resolved : s.status ≠ .resolving → (s.stream, s.labels) = resolvePass s.program
  exitHalts : s.exit = true ↔ s.status = .halted .exit
  endPc : s.status = .halted .endOfStream → s.stream.length ≤ s.pc
  errorPc : ∀ e, s.status = .halted (.error e) → s.pc < s.stream.length

/-- What the invariant says of a state that executes an instruction: memory is canonical and no exit has been requested. -/
def State.Ready (s : State) : Prop := Memory.wf s.mem = true ∧ s.exit = false

/-! ## Control: how an instruction leaves the pc and the rest of the control state -/

/-- The program, the stream, the label table and the parameters are unchanged (R53, R54, R444). -/
def ProgramKept (s t : State) : Prop :=
  t.program = s.program ∧ t.stream = s.stream ∧ t.labels = s.labels ∧ t.cfg = s.cfg

/-- An instruction ran and left the pc at `k`: the exit flag, the status, the program and the parameters are as before. -/
def GoesTo (k : Nat) (s t : State) : Prop :=
  t.pc = k ∧ t.exit = s.exit ∧ t.status = s.status ∧ ProgramKept s t

/-- An instruction ran on to the next line (R51, R162). -/
def Continues (s t : State) : Prop := GoesTo (s.pc + 1) s t

/-- The instructions that may redirect the pc (R51, R173). -/
def redirects : Instr → Bool
  | .jo _ | .jno _ | .jb _ | .jc _ | .jnae _ | .jae _ | .jnb _ | .jnc _ | .je _ | .jz _ | .jne _ | .jnz _
  | .jbe _ | .jna _ | .ja _ | .jnbe _ | .js _ | .jns _ | .jp _ | .jpe _ | .jnp _ | .jpo _ | .jl _ | .jnge _
  | .jge _ | .jnl _ | .jle _ | .jng _ | .jg _ | .jnle _ | .jmp _ | .call _ | .ret _ => true
  | .add _ _ _ | .adc _ _ _ | .sub _ _ _ | .sbb _ _ _ | .cmp _ _ _ | .and _ _ _ | .or _ _ _ | .xor _ _ _ | .test _ _ _
  | .mov _ _ _ | .inc _ _ | .dec _ _ | .neg _ _ | .not _ _ | .mul _ | .imul _ _ | .div _ | .idiv _
  | .rol _ _ _ | .ror _ _ _ | .rcl _ _ _ | .rcr _ _ _ | .shl _ _ _ | .sal _ _ _ | .shr _ _ _ | .sar _ _ _ | .push _
  | .pop _ | .pushf | .pushfl | .pushfd | .popf | .popfl | .popfd | .lahf | .sahf
  | .enter _ _ | .leave | .nop | .hlt | .cmpsb | .cmpsw | .cmpsd | .cmpsl | .movsb
  | .movsw | .movsd | .movsl | .scasb | .scasw | .scasd | .scasl | .stosb | .stosw
  | .stosd | .stosl | .lodsb | .lodsw | .lodsd | .lodsl | .cmovo _ _ _ | .cmovno _ _ _ | .cmovb _ _ _
  | .cmovc _ _ _ | .cmovnae _ _ _ | .cmovae _ _ _ | .cmovnb _ _ _ | .cmovnc _ _ _ | .cmove _ _ _ | .cmovz _ _ _ | .cmovne _ _ _ | .cmovnz _ _ _
  | .cmovbe _ _ _ | .cmovna _ _ _ | .cmova _ _ _ | .cmovnbe _ _ _ | .cmovs _ _ _ | .cmovns _ _ _ | .cmovp _ _ _ | .cmovpe _ _ _ | .cmovnp _ _ _
  | .cmovpo _ _ _ | .cmovl _ _ _ | .cmovnge _ _ _ | .cmovge _ _ _ | .cmovnl _ _ _ | .cmovle _ _ _ | .cmovng _ _ _ | .cmovg _ _ _ | .cmovnle _ _ _
  | .seto _ | .setno _ | .setb _ | .setc _ | .setnae _ | .setae _ | .setnb _ | .setnc _ | .sete _
  | .setz _ | .setne _ | .setnz _ | .setbe _ | .setna _ | .seta _ | .setnbe _ | .sets _ | .setns _
  | .setp _ | .setpe _ | .setnp _ | .setpo _ | .setl _ | .setnge _ | .setge _ | .setnl _ | .setle _
  | .setng _ | .setg _ | .setnle _ => false

/-! ## The resolving pass (R161) -/

/-- The line the resolving pass keeps of a program line: none of a bare label. -/
def keptLine : ProgLine → List Line
  | .label _ none => []
  | .label _ (some l) => [l]
  | .plain l => [l]

/-- The label a program line defines. -/
def labelOf? : ProgLine → Option Text
  | .label name _ => some name
  | .plain _ => none

/-! ## Registers: the views an instruction may write -/

/-- The lowest bit of a view in its cell (R32). -/
def viewLow : Reg → Nat
  | .r32 _ | .r16 _ | .lo8 _ => 0
  | .hi8 _ => 8

/-- Bit `i` of cell `c` belongs to the view (R32). -/
def inView (r : Reg) (c : Cell) (i : Nat) : Prop :=
  c = regCell r ∧ viewLow r ≤ i ∧ i < viewLow r + r.width.bits

/-- The view of a register destination. -/
def dstRegs : Dst → List Reg
  | .reg r => [r]
  | .mem _ => []

/-- The register views an instruction's rule writes: its register destination, and the registers it uses implicitly (R37). -/
def regsWritten : Instr → List Reg
  | .add _ _ dst | .adc _ _ dst | .sub _ _ dst | .sbb _ _ dst | .and _ _ dst | .or _ _ dst | .xor _ _ dst
  | .mov _ _ dst => dstRegs dst
  | .cmp _ _ _ | .test _ _ _ => []
  | .inc _ dst | .dec _ dst | .neg _ dst | .not _ dst => dstRegs dst
  | .mul _ | .imul _ none | .div _ | .idiv _ => [.r32 .eax, .r32 .edx]
  | .imul _ (some c) => [.r32 c]
  | .rol _ _ dst | .ror _ _ dst | .rcl _ _ dst | .rcr _ _ dst | .shl _ _ dst | .sal _ _ dst | .shr _ _ dst
  | .sar _ _ dst => dstRegs dst
  | .cmovo _ _ dst | .cmovno _ _ dst | .cmovb _ _ dst | .cmovc _ _ dst | .cmovnae _ _ dst | .cmovae _ _ dst | .cmovnb _ _ dst
  | .cmovnc _ _ dst | .cmove _ _ dst | .cmovz _ _ dst | .cmovne _ _ dst | .cmovnz _ _ dst | .cmovbe _ _ dst | .cmovna _ _ dst
  | .cmova _ _ dst | .cmovnbe _ _ dst | .cmovs _ _ dst | .cmovns _ _ dst | .cmovp _ _ dst | .cmovpe _ _ dst | .cmovnp _ _ dst
  | .cmovpo _ _ dst | .cmovl _ _ dst | .cmovnge _ _ dst | .cmovge _ _ dst | .cmovnl _ _ dst | .cmovle _ _ dst | .cmovng _ _ dst
  | .cmovg _ _ dst | .cmovnle _ _ dst => dstRegs dst
  | .seto dst | .setno dst | .setb dst | .setc dst | .setnae dst | .setae dst | .setnb dst | .setnc dst | .sete dst
  | .setz dst | .setne dst | .setnz dst | .setbe dst | .setna dst | .seta dst | .setnbe dst | .sets dst | .setns dst
  | .setp dst | .setpe dst | .setnp dst | .setpo dst | .setl dst | .setnge dst | .setge dst | .setnl dst | .setle dst
  | .setng dst | .setg dst | .setnle dst => dstRegs dst
  | .cmpsb | .cmpsw | .cmpsd | .cmpsl | .movsb | .movsw | .movsd | .movsl => [.r32 .esi, .r32 .edi]
  | .scasb | .scasw | .scasd | .scasl | .stosb | .stosw | .stosd | .stosl => [.r32 .edi]
  | .lodsb => [.lo8 .eax, .r32 .esi]
  | .lodsw => [.r16 .eax, .r32 .esi]
  | .lodsd | .lodsl => [.r32 .eax, .r32 .esi]
  | .push _ | .pushf | .pushfl | .pushfd | .popf | .popfl | .popfd | .call _ | .ret _ => [.r32 .esp]
  | .pop dst => .r32 .esp :: dstRegs dst
  | .lahf => [.hi8 .a]
  | .enter _ _ | .leave => [.r32 .ebp, .r32 .esp]
  | .jo _ | .jno _ | .jb _ | .jc _ | .jnae _ | .jae _ | .jnb _ | .jnc _ | .je _ | .jz _ | .jne _ | .jnz _ | .jbe _
  | .jna _ | .ja _ | .jnbe _ | .js _ | .jns _ | .jp _ | .jpe _ | .jnp _ | .jpo _ | .jl _ | .jnge _ | .jge _ | .jnl _
  | .jle _ | .jng _ | .jg _ | .jnle _ => []
  | .jmp _ | .sahf | .nop | .hlt => []

/-! ## Memory: the bytes an instruction may store to -/

/-- The bytes of a memory destination: its effective address in the state the instruction begins in, and the width (R89). -/
def dstBytes (s : State) (w : Width) : Dst → List (Int × Nat)
  | .reg _ => []
  | .mem m => [(s.ea m, w.bytes)]

/-- The address of the slot the next push stores to. -/
def pushSlot (s : State) : Int := addrOf (s.cell .esp - 4)

/-- The address of the `i`-th display word below the one `ebp` names (R371). -/
def displaySlot (s : State) (i : Nat) : Int := addrOf (s.cell .ebp - BitVec.ofNat 32 (4 * i))

/-- The `k`-th slot below `esp`, the first being slot 0. -/
def stackSlot (s : State) (k : Nat) : Int := addrOf (s.cell .esp - BitVec.ofNat 32 (4 * (k + 1)))

/-- The display level of an `enter`: 0 for the F1 form, and modulo 32 (R371). -/
def enterLevel (level : Option Byte) : Nat := (level.getD 0).toNat % 32

/-- The slots of `enter`: the saved `ebp` at `esp - 4`, and one for each of the `level mod 32` words above it (R371). -/
def enterSlots (s : State) (level : Option Byte) : List (Int × Nat) :=
  (List.range (enterLevel level + 1)).map fun k => (stackSlot s k, 4)

/-- The address and length of every store of an instruction that begins in `s`. -/
def memWritten (s : State) : Instr → List (Int × Nat)
  | .add w _ dst | .adc w _ dst | .sub w _ dst | .sbb w _ dst | .and w _ dst | .or w _ dst | .xor w _ dst
  | .mov w _ dst => dstBytes s w dst
  | .cmp _ _ _ | .test _ _ _ => []
  | .inc w dst | .dec w dst | .neg w dst | .not w dst => dstBytes s w dst
  | .mul _ | .imul _ _ | .div _ | .idiv _ => []
  | .rol w _ dst | .ror w _ dst | .rcl w _ dst | .rcr w _ dst | .shl w _ dst | .sal w _ dst | .shr w _ dst
  | .sar w _ dst => dstBytes s w dst
  | .cmovo w _ dst | .cmovno w _ dst | .cmovb w _ dst | .cmovc w _ dst | .cmovnae w _ dst | .cmovae w _ dst | .cmovnb w _ dst
  | .cmovnc w _ dst | .cmove w _ dst | .cmovz w _ dst | .cmovne w _ dst | .cmovnz w _ dst | .cmovbe w _ dst | .cmovna w _ dst
  | .cmova w _ dst | .cmovnbe w _ dst | .cmovs w _ dst | .cmovns w _ dst | .cmovp w _ dst | .cmovpe w _ dst | .cmovnp w _ dst
  | .cmovpo w _ dst | .cmovl w _ dst | .cmovnge w _ dst | .cmovge w _ dst | .cmovnl w _ dst | .cmovle w _ dst | .cmovng w _ dst
  | .cmovg w _ dst | .cmovnle w _ dst => dstBytes s w dst
  | .seto dst | .setno dst | .setb dst | .setc dst | .setnae dst | .setae dst | .setnb dst | .setnc dst | .sete dst
  | .setz dst | .setne dst | .setnz dst | .setbe dst | .setna dst | .seta dst | .setnbe dst | .sets dst | .setns dst
  | .setp dst | .setpe dst | .setnp dst | .setpo dst | .setl dst | .setnge dst | .setge dst | .setnl dst | .setle dst
  | .setng dst | .setg dst | .setnle dst => dstBytes s .w8 dst
  | .movsb | .stosb => [(addrOf (s.cell .edi), 1)]
  | .movsw | .stosw => [(addrOf (s.cell .edi), 2)]
  | .movsd | .movsl | .stosd | .stosl => [(addrOf (s.cell .edi), 4)]
  | .cmpsb | .cmpsw | .cmpsd | .cmpsl | .scasb | .scasw | .scasd | .scasl | .lodsb | .lodsw | .lodsd | .lodsl => []
  | .push _ | .pushf | .pushfl | .pushfd | .call _ => [(pushSlot s, 4)]
  | .pop dst => dstBytes s .w32 dst
  | .enter _ level => enterSlots s level
  | .jo _ | .jno _ | .jb _ | .jc _ | .jnae _ | .jae _ | .jnb _ | .jnc _ | .je _ | .jz _ | .jne _ | .jnz _ | .jbe _
  | .jna _ | .ja _ | .jnbe _ | .js _ | .jns _ | .jp _ | .jpe _ | .jnp _ | .jpo _ | .jl _ | .jnge _ | .jge _ | .jnl _
  | .jle _ | .jng _ | .jg _ | .jnle _ => []
  | .jmp _ | .popf | .popfl | .popfd | .lahf | .sahf | .ret _ | .leave | .nop | .hlt => []

/-! ## Flags: names, positions, and the flags an instruction may write -/

/-- The sixteen flags by name (R40). -/
inductive FlagName
  | cf
  | pf
  | af
  | zf
  | sf
  | tf
  | ifl
  | df
  | ovf
  | nt
  | rf
  | vm
  | ac
  | vif
  | vip
  | idf
deriving DecidableEq, Repr

/-- The sixteen names, in the order of R40. -/
def FlagName.all : List FlagName :=
  [.cf, .pf, .af, .zf, .sf, .tf, .ifl, .df, .ovf, .nt, .rf, .vm, .ac, .vif, .vip, .idf]

/-- The packed bit of a flag (R40). -/
def FlagName.pos : FlagName → Nat
  | .cf => 0
  | .pf => 2
  | .af => 4
  | .zf => 6
  | .sf => 7
  | .tf => 8
  | .ifl => 9
  | .df => 10
  | .ovf => 11
  | .nt => 14
  | .rf => 16
  | .vm => 17
  | .ac => 18
  | .vif => 19
  | .vip => 20
  | .idf => 21

/-- The flag under a name. -/
def Flags.get (f : Flags) : FlagName → Bool
  | .cf => f.cf
  | .pf => f.pf
  | .af => f.af
  | .zf => f.zf
  | .sf => f.sf
  | .tf => f.tf
  | .ifl => f.ifl
  | .df => f.df
  | .ovf => f.ovf
  | .nt => f.nt
  | .rf => f.rf
  | .vm => f.vm
  | .ac => f.ac
  | .vif => f.vif
  | .vip => f.vip
  | .idf => f.idf

/-- The six status flags (R171). -/
def statusFlags : List FlagName := [.cf, .pf, .af, .zf, .sf, .ovf]

/-- The seven flags some rule reads; the other nine are stored only (R44). -/
def liveFlags : List FlagName := [.cf, .pf, .af, .zf, .sf, .df, .ovf]

/-- The flags `ClearFlags()` clears (R171). -/
def clearSet : ClearScope → List FlagName
  | .all16 => FlagName.all
  | .status6 => statusFlags

/-- The value of a count operand (R280). -/
def countNat (s : State) : Count → Nat
  | .one => 1
  | .imm k => k.toNat
  | .cl => (s.cell .ecx).toNat % 256

/-- The effective count of a rotate (R280). -/
def rotateTimes (s : State) (c : Count) : Nat := countNat s c % 32

/-- The effective count of a shift (R280). -/
def shiftTimes (s : State) (c : Count) : Nat := countNat s c &&& s.cfg.shiftCountMask.toNat

/-- The flags an instruction that begins in `s` may write (R45). -/
def flagsWritten (s : State) : Instr → List FlagName
  | .add _ _ _ | .adc _ _ _ | .sub _ _ _ | .sbb _ _ _ | .cmp _ _ _ | .neg _ _ => statusFlags
  | .inc _ _ | .dec _ _ => [.pf, .af, .zf, .sf, .ovf]
  | .and _ _ _ | .or _ _ _ | .xor _ _ _ | .test _ _ _ => clearSet s.cfg.clearScope
  | .mul _ | .imul _ _ | .div _ | .idiv _ => statusFlags
  | .rol _ c _ | .ror _ c _ | .rcl _ c _ | .rcr _ c _ => if rotateTimes s c = 0 then [] else [.cf, .ovf]
  | .shl _ c _ | .sal _ c _ | .shr _ c _ | .sar _ c _ => if shiftTimes s c = 0 then [] else statusFlags
  | .cmpsb | .cmpsw | .cmpsd | .cmpsl | .scasb | .scasw | .scasd | .scasl => statusFlags
  | .mov _ _ _ => if s.cfg.clearBeforeMov then clearSet s.cfg.clearScope else []
  | .popf | .popfl | .popfd => FlagName.all
  | .sahf => [.cf, .pf, .af, .zf, .sf]
  | .jo _ | .jno _ | .jb _ | .jc _ | .jnae _ | .jae _ | .jnb _ | .jnc _ | .je _ | .jz _ | .jne _ | .jnz _ | .jbe _
  | .jna _ | .ja _ | .jnbe _ | .js _ | .jns _ | .jp _ | .jpe _ | .jnp _ | .jpo _ | .jl _ | .jnge _ | .jge _ | .jnl _
  | .jle _ | .jng _ | .jg _ | .jnle _ => []
  | .cmovo _ _ _ | .cmovno _ _ _ | .cmovb _ _ _ | .cmovc _ _ _ | .cmovnae _ _ _ | .cmovae _ _ _ | .cmovnb _ _ _ | .cmovnc _ _ _
  | .cmove _ _ _ | .cmovz _ _ _ | .cmovne _ _ _ | .cmovnz _ _ _ | .cmovbe _ _ _ | .cmovna _ _ _ | .cmova _ _ _ | .cmovnbe _ _ _
  | .cmovs _ _ _ | .cmovns _ _ _ | .cmovp _ _ _ | .cmovpe _ _ _ | .cmovnp _ _ _ | .cmovpo _ _ _ | .cmovl _ _ _ | .cmovnge _ _ _
  | .cmovge _ _ _ | .cmovnl _ _ _ | .cmovle _ _ _ | .cmovng _ _ _ | .cmovg _ _ _ | .cmovnle _ _ _ => []
  | .seto _ | .setno _ | .setb _ | .setc _ | .setnae _ | .setae _ | .setnb _ | .setnc _ | .sete _ | .setz _ | .setne _
  | .setnz _ | .setbe _ | .setna _ | .seta _ | .setnbe _ | .sets _ | .setns _ | .setp _ | .setpe _ | .setnp _ | .setpo _
  | .setl _ | .setnge _ | .setge _ | .setnl _ | .setle _ | .setng _ | .setg _ | .setnle _ => []
  | .not _ _ | .movsb | .movsw | .movsd | .movsl | .stosb | .stosw | .stosd | .stosl | .lodsb | .lodsw | .lodsd
  | .lodsl | .push _ | .pop _ | .pushf | .pushfl | .pushfd | .lahf | .jmp _ | .call _ | .ret _ | .enter _ _ | .leave
  | .nop | .hlt => []

/-- Bit `k` of the packed flag word: bit 1 is 1, the bit at a flag's position is the flag, every other bit is 0 (R42). -/
def packedBit (f : Flags) (k : Nat) : Bool := k == 1 || FlagName.all.any fun n => n.pos == k && f.get n

/-- The two flag registers agree on the flags some rule reads. -/
def LiveFlagsAgree (f g : Flags) : Prop := ∀ n ∈ liveFlags, f.get n = g.get n

/-! ## Results and flags in plain arithmetic -/

/-- A signed integer fits `n` bits (R12). -/
def SignedFits (n : Nat) (z : Int) : Prop := -(2 ^ (n - 1)) ≤ z ∧ z < 2 ^ (n - 1)

/-- The low byte of a result has an odd number of set bits (R41). -/
def OddLowByte {n : Nat} (r : BitVec n) : Prop := ((List.range 8).filter r.getLsbD).length % 2 = 1

/-- ZF, SF and PF are those of the result `r` (R172). -/
def ResultFlags {n : Nat} (r : BitVec n) (f : Flags) : Prop :=
  (f.zf = true ↔ r.toNat = 0) ∧ (f.sf = true ↔ 2 ^ (n - 1) ≤ r.toNat) ∧ (f.pf = true ↔ OddLowByte r)

/-- OF and AF are those of `d + x` (R200). -/
def SumOfAf {n : Nat} (d x : BitVec n) (f : Flags) : Prop :=
  (f.ovf = true ↔ ¬ SignedFits n (d.toInt + x.toInt)) ∧ (f.af = true ↔ 0xF < d.toNat % 16 + x.toNat % 16)

/-- CF, OF and AF are those of `d + x` (R200). -/
def SumFlags {n : Nat} (d x : BitVec n) (f : Flags) : Prop :=
  (f.cf = true ↔ 2 ^ n ≤ d.toNat + x.toNat) ∧ SumOfAf d x f

/-- OF and AF are those of `d - x` (R201). -/
def DifferenceOfAf {n : Nat} (d x : BitVec n) (f : Flags) : Prop :=
  (f.ovf = true ↔ ¬ SignedFits n (d.toInt - x.toInt)) ∧ (f.af = true ↔ d.toNat % 16 < x.toNat % 16)

/-- CF, OF and AF are those of `d - x` (R201). -/
def DifferenceFlags {n : Nat} (d x : BitVec n) (f : Flags) : Prop :=
  (f.cf = true ↔ d.toNat < x.toNat) ∧ DifferenceOfAf d x f

/-- The difference `d - x` modulo `2^n` (R201). -/
def differenceNat {n : Nat} (d x : BitVec n) : Nat := (d.toNat + 2 ^ n - x.toNat) % 2 ^ n

/-- The source step 2 of `adc` and `sbb` reads: the source's value, but for one register view as source and destination after a
carry, where `ADC_SBB_ALIAS` says whether it is the value `u` step 1 gave (R210). -/
def StepTwoReads {n : Nat} (s : State) (src : Src) (dst : Dst) (x u y : BitVec n) : Prop :=
  (sameView src dst = false → y = x) ∧
  (sameView src dst = true →
    match s.cfg.adcSbbAlias with
    | .snapshot => y = x
    | .inplace => y = u
    | .either => y = x ∨ y = u)

/-- Every flag of `ClearFlags()` that is no status flag is false, and every flag outside it is unchanged (R171). -/
def OtherFlagsCleared (s t : State) : Prop :=
  ∀ n, n ∉ statusFlags → t.flags.get n = if n ∈ clearSet s.cfg.clearScope then false else s.flags.get n

/-- A destination operand resolved in `s` holds `v` in `t` (R35, R82, R89). -/
def DstHolds (w : Width) (dst : Dst) (s t : State) (v : BitVec w.bits) : Prop := t.val w (s.dstView dst) = .ok v

/-- A destination operand can be read and written in `s`: it is a register, or its bytes are in bounds (R84). -/
def DstReachable (w : Width) (dst : Dst) (s : State) : Prop :=
  match dst with
  | .reg _ => True
  | .mem m => s.inBounds (s.ea m) w.bytes

/-- Where the `n` bytes at `a` are not in bounds, `r` halts the run with the error of R84 and writes nothing (R402). -/
def HaltsOutside (s : State) (a : Int) (n : Nat) (r : Result) : Prop :=
  ¬ s.inBounds a n → r = .next { s with status := .halted (.error (.outOfBoundsMemoryAccess a n)) }

/-- The word at an address is `v`. -/
def WordAt (a : Int) (v : Word) (t : State) : Prop := t.memRead a .w32 = .ok v

/-- The word a `push %esp` stores or a `pop %esp` leaves: what `PUSH_POP_ESP` allows (R363). -/
def EspChoice (p : AliasPolicy) (snapshot inplace v : Word) : Prop :=
  match p with
  | .snapshot => v = snapshot
  | .inplace => v = inplace
  | .either => v = snapshot ∨ v = inplace

/-- The pointer step of a string instruction: `delta` of R340. -/
def stringDelta (s : State) (w : Width) : Int :=
  let step : Int := match s.cfg.stringStep with
    | .byte => 1
    | .width => w.bits / 8
  if s.flags.df then -step else step

/-- A pointer register moved by `delta` modulo `2^32` (R340). -/
def PointerMoved (c : Cell) (w : Width) (s t : State) : Prop :=
  ((t.cell c).toNat : Int) = ((s.cell c).toNat + stringDelta s w) % 2 ^ 32

/-! ## The reference loops of the rotates and shifts, on naturals (R281 to R287) -/

/-- `repeat n times`. -/
def repeatTimes (body : Nat × Nat → Nat × Nat) : Nat → Nat × Nat → Nat × Nat
  | 0, p => p
  | n + 1, p => repeatTimes body n (body p)

/-- `b <- r[w-1]; r <- ((r * 2) mod 2^w) + b; c <- b` (R281). -/
def rolBody (w : Nat) (p : Nat × Nat) : Nat × Nat := (p.1 * 2 % 2 ^ w + p.1 / 2 ^ (w - 1), p.1 / 2 ^ (w - 1))

/-- `b <- r[0]; r <- (r div 2) + b * 2^(w-1); c <- b` (R282). -/
def rorBody (w : Nat) (p : Nat × Nat) : Nat × Nat := (p.1 / 2 + p.1 % 2 * 2 ^ (w - 1), p.1 % 2)

/-- `b <- r[w-1]; r <- ((r * 2) mod 2^w) + c; c <- b` (R283). -/
def rclBody (w : Nat) (p : Nat × Nat) : Nat × Nat := (p.1 * 2 % 2 ^ w + p.2, p.1 / 2 ^ (w - 1))

/-- `b <- r[0]; r <- (r div 2) + c * 2^(w-1); c <- b` (R284). -/
def rcrBody (w : Nat) (p : Nat × Nat) : Nat × Nat := (p.1 / 2 + p.2 * 2 ^ (w - 1), p.1 % 2)

/-- `c <- r[w-1]; r <- (r * 2) mod 2^w` (R285). -/
def shlBody (w : Nat) (p : Nat × Nat) : Nat × Nat := (p.1 * 2 % 2 ^ w, p.1 / 2 ^ (w - 1))

/-- `c <- r[0]; r <- r div 2` (R286). -/
def shrBody (_ : Nat) (p : Nat × Nat) : Nat × Nat := (p.1 / 2, p.1 % 2)

/-- `c <- r[0]; r <- (r div 2) + sgn * 2^(w-1)` (R287). -/
def sarBody (sgn : Nat) (w : Nat) (p : Nat × Nat) : Nat × Nat := (p.1 / 2 + sgn * 2 ^ (w - 1), p.1 % 2)

/-- What a loop starts from: the destination's value and the carry. -/
def loopStart {n : Nat} (d : BitVec n) (s : State) : Nat × Nat := (d.toNat, s.flags.cf.toNat)

/-! ## The instructions by their operation -/

/-- `j<cc>`, each with its condition. -/
def jumpSpellings : List (Cond × (Text → Instr)) :=
  [(.o, .jo), (.no, .jno), (.b, .jb), (.b, .jc), (.b, .jnae), (.ae, .jae),
   (.ae, .jnb), (.ae, .jnc), (.e, .je), (.e, .jz), (.ne, .jne), (.ne, .jnz),
   (.be, .jbe), (.be, .jna), (.a, .ja), (.a, .jnbe), (.s, .js), (.ns, .jns),
   (.p, .jp), (.p, .jpe), (.np, .jnp), (.np, .jpo), (.l, .jl), (.l, .jnge),
   (.ge, .jge), (.ge, .jnl), (.le, .jle), (.le, .jng), (.g, .jg), (.g, .jnle)]

/-- `cmov<cc>`, each with its condition. -/
def cmovSpellings : List (Cond × (Width → Src → Dst → Instr)) :=
  [(.o, .cmovo), (.no, .cmovno), (.b, .cmovb), (.b, .cmovc), (.b, .cmovnae), (.ae, .cmovae),
   (.ae, .cmovnb), (.ae, .cmovnc), (.e, .cmove), (.e, .cmovz), (.ne, .cmovne), (.ne, .cmovnz),
   (.be, .cmovbe), (.be, .cmovna), (.a, .cmova), (.a, .cmovnbe), (.s, .cmovs), (.ns, .cmovns),
   (.p, .cmovp), (.p, .cmovpe), (.np, .cmovnp), (.np, .cmovpo), (.l, .cmovl), (.l, .cmovnge),
   (.ge, .cmovge), (.ge, .cmovnl), (.le, .cmovle), (.le, .cmovng), (.g, .cmovg), (.g, .cmovnle)]

/-- `set<cc>`, each with its condition. -/
def setSpellings : List (Cond × (Dst → Instr)) :=
  [(.o, .seto), (.no, .setno), (.b, .setb), (.b, .setc), (.b, .setnae), (.ae, .setae),
   (.ae, .setnb), (.ae, .setnc), (.e, .sete), (.e, .setz), (.ne, .setne), (.ne, .setnz),
   (.be, .setbe), (.be, .setna), (.a, .seta), (.a, .setnbe), (.s, .sets), (.ns, .setns),
   (.p, .setp), (.p, .setpe), (.np, .setnp), (.np, .setpo), (.l, .setl), (.l, .setnge),
   (.ge, .setge), (.ge, .setnl), (.le, .setle), (.le, .setng), (.g, .setg), (.g, .setnle)]

/-- The two-operand instructions that read or write both operands at one width (R129). -/
def binarySpellings : List (Width → Src → Dst → Instr) :=
  [.add, .adc, .sub, .sbb, .cmp, .and, .or, .xor, .test, .mov] ++ cmovSpellings.map Prod.snd

/-- The one-operand instructions that read and write their operand (R129). -/
def unarySpellings : List (Width → Dst → Instr) := [.inc, .dec, .neg, .not]

/-- The rotates, each with its loop body and OF for one step, from the result and the new carry (R281 to R284). -/
def rotateSpellings : List ((Width → Count → Dst → Instr) × (Nat → Nat × Nat → Nat × Nat) × (Nat → Nat → Nat → Bool)) :=
  [(.rol, rolBody, fun w r c => decide (c ≠ r / 2 ^ (w - 1))),
   (.ror, rorBody, fun w r _ => decide (r / 2 ^ (w - 1) ≠ r / 2 ^ (w - 2) % 2)),
   (.rcl, rclBody, fun w r c => decide (c ≠ r / 2 ^ (w - 1))),
   (.rcr, rcrBody, fun w r _ => decide (r / 2 ^ (w - 1) ≠ r / 2 ^ (w - 2) % 2))]

/-- The shifts, each with its loop body (given the operand's sign bit) and OF for one step, from the operand, the result and the new
carry (R285 to R287). -/
def shiftSpellings :
    List ((Width → Count → Dst → Instr) × (Nat → Nat → Nat × Nat → Nat × Nat) × (Nat → Nat → Nat → Nat → Bool)) :=
  [(.shl, fun _ => shlBody, fun w _ r c => decide (r / 2 ^ (w - 1) ≠ c)),
   (.sal, fun _ => shlBody, fun w _ r c => decide (r / 2 ^ (w - 1) ≠ c)),
   (.shr, fun _ => shrBody, fun w d _ _ => decide (d / 2 ^ (w - 1) = 1)),
   (.sar, sarBody, fun _ _ _ _ => false)]

/-- The spellings of `cmps` (R341). -/
def cmpsSpellings : List (Width × Instr) := [(.w8, .cmpsb), (.w16, .cmpsw), (.w32, .cmpsd), (.w32, .cmpsl)]

/-- The spellings of `movs` (R342). -/
def movsSpellings : List (Width × Instr) := [(.w8, .movsb), (.w16, .movsw), (.w32, .movsd), (.w32, .movsl)]

/-- The spellings of `scas` (R343). -/
def scasSpellings : List (Width × Instr) := [(.w8, .scasb), (.w16, .scasw), (.w32, .scasd), (.w32, .scasl)]

/-- The spellings of `stos` (R344). -/
def stosSpellings : List (Width × Instr) := [(.w8, .stosb), (.w16, .stosw), (.w32, .stosd), (.w32, .stosl)]

/-- The spellings of `lods` (R345). -/
def lodsSpellings : List (Width × Instr) := [(.w8, .lodsb), (.w16, .lodsw), (.w32, .lodsd), (.w32, .lodsl)]

/-- The spellings of `pushf` (R364). -/
def pushfSpellings : List Instr := [.pushf, .pushfl, .pushfd]

/-- The spellings of `popf` (R365). -/
def popfSpellings : List Instr := [.popf, .popfl, .popfd]

end Sys2Proof.Machine
end

