-- ==== Sys2Proof/Certificates/Slice0/Obligations.lean ====
section
/-! DEFINITION. The statements for the provers: what the numbered rules of the spec say, of the model's decoder, step, operations and
instructions, for every state and operands. Results are in plain integer arithmetic (Safety.lean); a result statement is also the
completion statement of its instructions. -/

section

open Sys2Proof Sys2Proof.Machine

/-! ## Encoding -/

/-- Decoding the record of a well-formed instruction gives the instruction back, with every operand (R116, R118, R119, R129). -/
def Obligations.DecodeEncodeAgree : Prop :=
  ∀ (cfg : Config) (i : Instr), cfg.spellingsClear = true → i.wellFormed cfg = true → decode cfg (encode cfg i) = .ok i

/-- What the decoder admits is well-formed: register widths agree, immediates are in range, at most one operand is a Memory operand
(R117, R120, R121, R122). -/
def Obligations.DecodedIsWellFormed : Prop :=
  ∀ (cfg : Config) (r : Record) (i : Instr), decode cfg r = .ok i → i.wellFormed cfg = true

/-- Records written out from R111, R116 and R129 decode to the instructions they stand for. -/
def Obligations.SpecRecordsDecode : Prop :=
  decode .default ⟨['a', 'd', 'd', 'b'], [.literal 5, .memory (.register ['e', 's', 'p']) (-4) 2 (some ['e', 'c', 'x'])]⟩ =
      .ok (.add .w8 (.imm 5) (.mem ⟨.register .esp, -4, .x2, some .ecx⟩)) ∧
    decode .default ⟨['c', 'm', 'o', 'v', 'n', 'l', 'e'], [.register ['b', 'x'], .register ['d', 'i']]⟩ =
      .ok (.cmovnle .w16 (.reg (.r16 .ebx)) (.reg (.r16 .edi))) ∧
    decode .default ⟨['s', 'a', 'r'], [.register ['c', 'l'], .register ['d', 'h']]⟩ = .ok (.sar .w8 .cl (.reg (.hi8 .d))) ∧
    decode .default ⟨['j', 'p', 'o'], [.labelRef ['e', 'n', 'd']]⟩ = .ok (.jpo ['e', 'n', 'd']) ∧
    decode .default ⟨['e', 'n', 't', 'e', 'r'], [.literal 8, .literal 2]⟩ = .ok (.enter 8 (some 2)) ∧
    decode .default ⟨['h', 'l', 't'], []⟩ = .ok .hlt

/-- What fails to decode, and how. A mnemonic that is no spelling of the map fails as `UNIMPLEMENTED_SET` says, whatever its operands,
and an exit mnemonic that the map does not spell decodes to the exit instruction (R124, R130; that the map goes first is the model's
choice, log 10). For a two-operand instruction the first failing check is reported:
the operand count, then operand 0's spelling and kind, then operand 1's (R165, R404). -/
def Obligations.DecodeErrors : Prop :=
  (∀ (cfg : Config) (m : Text) (ops : List Operand), assoc m rows = none →
    (m ∈ cfg.exitMnemonics → decode cfg ⟨m, []⟩ = .ok .hlt) ∧
    (m ∉ cfg.exitMnemonics → lookupSuffixed m = none →
      (m ∈ cfg.unimplementedSet → decode cfg ⟨m, ops⟩ = .error (.unimplementedInstruction m)) ∧
      (m ∉ cfg.unimplementedSet → decode cfg ⟨m, ops⟩ = .error (.unknownMnemonic m)))) ∧
  ∀ (cfg : Config) (m : Text) (mk : Width → Src → Dst → Instr) (suffix : Option Width),
    decodeMnemonic cfg m = .ok (.alu mk, suffix) →
    (∀ ops, ops.length ≠ 2 → decode cfg ⟨m, ops⟩ = .error .invalidOperand) ∧
    (∀ n b, lookupReg cfg n = none → decode cfg ⟨m, [.register n, b]⟩ = .error (.unknownRegister n)) ∧
    (∀ n b, decode cfg ⟨m, [.labelRef n, b]⟩ = .error .invalidOperand) ∧
    (∀ a src n, admitOperand cfg Opnd.src? a = .ok src → lookupReg cfg n = none →
      decode cfg ⟨m, [a, .register n]⟩ = .error (.unknownRegister n)) ∧
    (∀ a src k, admitOperand cfg Opnd.src? a = .ok src → decode cfg ⟨m, [a, .literal k]⟩ = .error .invalidOperand)

/-! ## The step -/

/-- A running core whose line at the pc decodes to an instruction runs exactly that instruction (R162). -/
def Obligations.StepRunsDecodedInstruction : Prop :=
  ∀ (s : State) (r : Record) (i : Instr), s.status = .running → s.stream[s.pc]? = some (.instr r) → decode s.cfg r = .ok i →
    step s = exec i s

/-- The lines of a running core that run no instruction: a `NOP` or `Directive` line changes nothing but the pc, which advances by one
(R164); an exhausted stream halts the run with `EndOfStream`, a malformed line and a record that does not decode halt it with their
error, and nothing else changes (R162, R163). -/
def Obligations.OtherLines : Prop :=
  ∀ s : State, s.status = .running →
    (s.stream[s.pc]? = some .nop ∨ s.stream[s.pc]? = some .directive → step s = .next { s with pc := s.pc + 1 }) ∧
    (s.stream.length ≤ s.pc → step s = .next { s with status := .halted .endOfStream }) ∧
    (s.stream[s.pc]? = some .malformed → step s = .next { s with status := .halted (.error .malformedInstructionText) }) ∧
    (∀ r e, s.stream[s.pc]? = some (.instr r) → decode s.cfg r = .error e →
      step s = .next { s with status := .halted (.error e) })

/-- No step leaves a halted state (R56). The model answers a fault there: its choice, log 6. -/
def Obligations.HaltedIsFinal : Prop :=
  ∀ (s : State) (r : HaltReason), s.status = .halted r → step s = .fault (.halted r)

/-- The resolving pass: the stream is the program without its label definitions, a label names the index of the next line kept, the
first definition wins, a name no line defines is not in the table, and nothing else but the status changes (R161). -/
def Obligations.ResolvingPass : Prop :=
  ∀ s : State, s.status = .resolving → ∃ t, step s = .next t ∧
    t.stream = s.program.flatMap keptLine ∧
    (∀ pre name rest post, s.program = pre ++ .label name rest :: post → (∀ l ∈ pre, labelOf? l ≠ some name) →
      assoc name t.labels = some (pre.flatMap keptLine).length) ∧
    (∀ name, (∀ l ∈ s.program, labelOf? l ≠ some name) → assoc name t.labels = none) ∧
    t.status = .running ∧ t.cells = s.cells ∧ t.flags = s.flags ∧ t.pc = s.pc ∧ t.exit = s.exit ∧ t.mem = s.mem ∧
    t.program = s.program ∧ t.cfg = s.cfg

/-- The invariant of a run is kept by every step, from every state that meets it. -/
def Obligations.StepKeepsInv : Prop :=
  ∀ s t : State, s.Inv → step s = .next t → t.Inv

/-- The invariant holds of every initial state whose memory is canonical and inside its bounds, and of the reset state; a running
state that meets it is ready to execute. -/
def Obligations.InvInitially : Prop :=
  (∀ cfg gpr mem program, Memory.wf mem = true → Memory.within cfg.memSize mem = true →
    (State.initial cfg gpr mem program).Inv) ∧
  State.reset.Inv ∧
  ∀ s : State, s.Inv → s.status = .running → s.Ready

/-- No step changes the program or the parameters, and once the resolving pass has run none changes the stream or the label table
(R53, R54, R444). -/
def Obligations.ProgramIsReadOnly : Prop :=
  ∀ s t : State, step s = .next t →
    t.program = s.program ∧ t.cfg = s.cfg ∧ (s.status ≠ .resolving → t.stream = s.stream ∧ t.labels = s.labels)

/-- A step that halts the run with an error changes the run status only: no register, flag, memory byte, pc or exit flag is written,
and the pc stays at the failing line (R402). -/
def Obligations.ErrorCommitsNothing : Prop :=
  ∀ (s t : State) (e : ErrorKind), s.status = .running → step s = .next t → t.status = .halted (.error e) →
    t = { s with status := .halted (.error e) } ∧ s.pc < s.stream.length

/-- The exit flag is set by the exit instruction only, and nothing clears it (R52, R416). -/
def Obligations.ExitFlag : Prop :=
  ∀ s t : State, step s = .next t →
    (s.exit = true → t.exit = true) ∧
    (s.exit = false → t.exit = true →
      ∃ r, s.status = .running ∧ s.stream[s.pc]? = some (.instr r) ∧ decode s.cfg r = .ok .hlt)

/-- The nine stored-only flags influence nothing but themselves and the word `pushf` stores: two states that differ only in them
step to states that differ only in them (R44). -/
def Obligations.StoredOnlyFlagsUnread : Prop :=
  ∀ (i : Instr) (s : State) (f : Flags), i ∉ pushfSpellings → LiveFlagsAgree s.flags f →
    ∃ t g, exec i s = .next t ∧ exec i (s.withFlags f) = .next (t.withFlags g) ∧ LiveFlagsAgree t.flags g

/-- The state at the start of a run, for every choice of the host's parameters, registers, memory and program; the reset state is one
such state (R60). -/
def Obligations.InitialState : Prop :=
  (∀ cfg gpr mem program,
    let s := State.initial cfg gpr mem program
    s.cells = gpr ∧ (∀ n, s.flags.get n = false) ∧ s.flags.pack = 0x00000002#32 ∧ s.pc = 0 ∧ s.exit = false ∧
      s.labels = [] ∧ s.mem = mem ∧ s.status = .resolving) ∧
  ∃ cfg gpr mem program, State.reset = State.initial cfg gpr mem program

/-! ## Shared operations -/

/-- The result flags (R41, R172): ZF, SF and PF are the result's, PF by odd parity, and no other flag changes. -/
def Obligations.ResultFlagsRule : Prop :=
  ∀ (w : Width) (r : BitVec w.bits) (f : Flags),
    ResultFlags r (f.setZSP r) ∧ ∀ n, n ∉ [FlagName.zf, .sf, .pf] → (f.setZSP r).get n = f.get n

/-- Packing and unpacking the flag register (R42, R43). -/
def Obligations.PackUnpack : Prop :=
  (∀ f : Flags, (∀ k < 32, f.pack.getLsbD k = packedBit f k) ∧ Flags.unpack f.pack = f) ∧
  Flags.clear.pack = 0x00000002#32 ∧
  ∀ u : Word, (∀ n, (Flags.unpack u).get n = u.getLsbD n.pos) ∧ (Flags.unpack u).pack = (u &&& 0x003F4FD5#32) ||| 2#32

/-- A register view reads its bits of the cell; writing it replaces those bits and leaves every other bit of every cell (R35, R36). -/
def Obligations.RegisterViews : Prop :=
  ∀ (s : State) (r : Reg) (v : BitVec r.width.bits),
    (∀ i < r.width.bits, (s.readReg r).getLsbD i = (s.cell (regCell r)).getLsbD (viewLow r + i)) ∧
    (∀ i < r.width.bits, ((s.writeReg r v).cell (regCell r)).getLsbD (viewLow r + i) = v.getLsbD i) ∧
    ∀ c i, ¬ inView r c i → ((s.writeReg r v).cell c).getLsbD i = (s.cell c).getLsbD i

/-- Memory access: an in-bounds read is the little-endian sum of its bytes, an in-bounds write stores byte `i` of the value at
`a + i` and changes nothing else, and an access not in bounds is an error (R82, R83, R84). -/
def Obligations.MemoryAccess : Prop :=
  ∀ (s : State) (a : Int) (w : Width) (v : BitVec w.bits), Memory.wf s.mem = true →
    (0 ≤ a ∧ a + w.bytes ≤ s.cfg.memSize →
      (∃ r, s.memRead a w = .ok r ∧
        r.toNat = ((List.range w.bytes).map fun i => (readByte s.mem (a.toNat + i)).toNat * 2 ^ (8 * i)).sum) ∧
      ∃ m, s.memWrite a w v = .ok (s.withMem m) ∧
        (∀ i < w.bytes, (readByte m (a.toNat + i)).toNat = v.toNat / 2 ^ (8 * i) % 2 ^ 8) ∧
        ∀ b : Nat, (b : Int) < a ∨ a + w.bytes ≤ b → readByte m b = readByte s.mem b) ∧
    (¬ (0 ≤ a ∧ a + w.bytes ≤ s.cfg.memSize) →
      s.memRead a w = .error (.outOfBoundsMemoryAccess a w.bytes) ∧
      s.memWrite a w v = .error (.outOfBoundsMemoryAccess a w.bytes))

/-- The effective address over the integers, in every form of base and index (R86). -/
def Obligations.EffectiveAddress : Prop :=
  ∀ (s : State) (off k : I32) (b c : Cell) (sc : Scale),
    s.ea ⟨.register b, off, sc, some c⟩ = (s.cell b).toNat + off.toInt + (s.cell c).toNat * sc.factor ∧
    s.ea ⟨.literal k, off, sc, some c⟩ = k.toInt + off.toInt + (s.cell c).toNat * sc.factor ∧
    s.ea ⟨.absent, off, sc, some c⟩ = off.toInt + (s.cell c).toNat * sc.factor ∧
    s.ea ⟨.register b, off, sc, none⟩ = (s.cell b).toNat + off.toInt ∧
    s.ea ⟨.literal k, off, sc, none⟩ = k.toInt + off.toInt ∧
    s.ea ⟨.absent, off, sc, none⟩ = off.toInt ∧
    (sc.factor = 1 ∨ sc.factor = 2 ∨ sc.factor = 4 ∨ sc.factor = 8)

/-- The adder (R200), and that its `of` is signed overflow. -/
def Obligations.AddCoreRule : Prop :=
  ∀ (w : Width) (d x : BitVec w.bits),
    let a := addCore d x
    a.res.toNat = (d.toNat + x.toNat) % 2 ^ w.bits ∧
    (a.cf = true ↔ 2 ^ w.bits ≤ d.toNat + x.toNat) ∧
    (a.ovf = true ↔
      d.getLsbD (w.bits - 1) = x.getLsbD (w.bits - 1) ∧ a.res.getLsbD (w.bits - 1) ≠ d.getLsbD (w.bits - 1)) ∧
    (a.af = true ↔ 0xF < d.toNat % 16 + x.toNat % 16) ∧
    (a.ovf = true ↔ ¬ SignedFits w.bits (d.toInt + x.toInt))

/-- The subtractor (R201), and that its `of` is signed overflow. -/
def Obligations.SubCoreRule : Prop :=
  ∀ (w : Width) (d x : BitVec w.bits),
    let a := subCore d x
    (a.res.toNat : Int) = ((d.toNat : Int) - x.toNat) % 2 ^ w.bits ∧
    (a.cf = true ↔ d.toNat < x.toNat) ∧
    (a.ovf = true ↔
      d.getLsbD (w.bits - 1) ≠ x.getLsbD (w.bits - 1) ∧ a.res.getLsbD (w.bits - 1) ≠ d.getLsbD (w.bits - 1)) ∧
    (a.af = true ↔ d.toNat % 16 < x.toNat % 16) ∧
    (a.ovf = true ↔ ¬ SignedFits w.bits (d.toInt - x.toInt))

/-- The unsigned and zero conditions, on the stored flags (R310 to R317). -/
def Obligations.CarryZeroConditions : Prop :=
  ∀ f : Flags,
    (condHolds f .o = true ↔ f.ovf = true) ∧ (condHolds f .no = true ↔ f.ovf = false) ∧
    (condHolds f .b = true ↔ f.cf = true) ∧ (condHolds f .ae = true ↔ f.cf = false) ∧
    (condHolds f .e = true ↔ f.zf = true) ∧ (condHolds f .ne = true ↔ f.zf = false) ∧
    (condHolds f .be = true ↔ f.cf = true ∨ f.zf = true) ∧ (condHolds f .a = true ↔ f.cf = false ∧ f.zf = false)

/-- The sign, parity and signed conditions, on the stored flags (R318 to R325). -/
def Obligations.SignParityConditions : Prop :=
  ∀ f : Flags,
    (condHolds f .s = true ↔ f.sf = true) ∧ (condHolds f .ns = true ↔ f.sf = false) ∧
    (condHolds f .p = true ↔ f.pf = true) ∧ (condHolds f .np = true ↔ f.pf = false) ∧
    (condHolds f .l = true ↔ f.sf ≠ f.ovf) ∧ (condHolds f .ge = true ↔ f.sf = f.ovf) ∧
    (condHolds f .le = true ↔ f.zf = true ∨ f.sf ≠ f.ovf) ∧ (condHolds f .g = true ↔ f.zf = false ∧ f.sf = f.ovf)

/-- An immediate is admitted exactly in its range, at width 32 always, and its value is `k` modulo `2^w`; counts, sizes and levels are
admitted exactly in theirs (R117). -/
def Obligations.Immediates : Prop :=
  ∀ (k : I32) (w : Width),
    (immFits w k = true ↔ -(2 ^ (w.bits - 1) : Int) ≤ k.toInt ∧ k.toInt ≤ 2 ^ w.bits - 1) ∧
    immFits .w32 k = true ∧
    ((immValue w k).toNat : Int) = k.toInt % 2 ^ w.bits ∧
    ((uimm? 8 k).isSome = true ↔ 0 ≤ k.toInt ∧ k.toInt ≤ 255) ∧
    ((uimm? 16 k).isSome = true ↔ 0 ≤ k.toInt ∧ k.toInt ≤ 65535) ∧
    (∀ v, uimm? 8 k = some v → (v.toNat : Int) = k.toInt) ∧
    ∀ v, uimm? 16 k = some v → (v.toNat : Int) = k.toInt

/-! ## Frames of every instruction -/

/-- Registers: every bit of every cell outside the views an instruction writes is unchanged, whatever the instruction and however it
ends (R36, R37). -/
def Obligations.RegisterFrame : Prop :=
  ∀ (i : Instr) (s t : State) (c : Cell) (k : Nat), exec i s = .next t → (∀ r ∈ regsWritten i, ¬ inView r c k) →
    (t.cell c).getLsbD k = (s.cell c).getLsbD k

/-- Memory: every byte outside the bytes an instruction stores to reads as before; an instruction that stores to none leaves all of
memory (R83, R92). -/
def Obligations.MemoryFrame : Prop :=
  ∀ (i : Instr) (s t : State) (b : Nat), Memory.wf s.mem = true → exec i s = .next t →
    (∀ p ∈ memWritten s i, (b : Int) < p.1 ∨ p.1 + p.2 ≤ b) → readByte t.mem b = readByte s.mem b

/-- Flags: every flag outside those R45 says an instruction writes is unchanged. -/
def Obligations.FlagFrame : Prop :=
  ∀ (i : Instr) (s t : State) (n : FlagName), exec i s = .next t → n ∉ flagsWritten s i → t.flags.get n = s.flags.get n

/-- Control state: every instruction answers a next state; it leaves the program, the stream, the labels and the parameters, and
either takes an error and changes nothing but the status, or advances the pc by one unless it is a jump, `call` or `ret`, sets the exit
flag exactly if it is the exit instruction, and halts exactly if that flag is set (R51, R162, R170, R173). -/
def Obligations.ControlFrame : Prop :=
  ∀ (i : Instr) (s : State), ∃ t, exec i s = .next t ∧ ProgramKept s t ∧
    ((∃ e, t = s.raise e) ∨
      (redirects i = false → t.pc = s.pc + 1) ∧ (t.exit = true ↔ s.exit = true ∨ i = .hlt) ∧
        t.status = if t.exit then .halted .exit else s.status)

/-! ## Arithmetic (41_arithmetic.md) -/

/-- `add` (R202). -/
def Obligations.AddResult : Prop :=
  ∀ (s : State) (w : Width) (src : Src) (dst : Dst) (d x : BitVec w.bits), s.Ready →
    (Instr.add w src dst).wellFormed s.cfg = true → s.dstVal w dst = .ok d → s.srcVal w src = .ok x →
    ∃ t, exec (.add w src dst) s = .next t ∧ Continues s t ∧
      DstHolds w dst s t (BitVec.ofNat w.bits (d.toNat + x.toNat)) ∧ SumFlags d x t.flags ∧
      ResultFlags (BitVec.ofNat w.bits (d.toNat + x.toNat)) t.flags

/-- `adc`, in two steps, with the aliasing rule (R203, R210). Under `either` step 2 reads one of the two values, and the statement
holds for both. -/
def Obligations.AdcResult : Prop :=
  ∀ (s : State) (w : Width) (src : Src) (dst : Dst) (d x : BitVec w.bits), s.Ready →
    (Instr.adc w src dst).wellFormed s.cfg = true → s.dstVal w dst = .ok d → s.srcVal w src = .ok x →
    ∃ (t : State) (u y : BitVec w.bits), exec (.adc w src dst) s = .next t ∧ Continues s t ∧
      u = BitVec.ofNat w.bits (d.toNat + s.flags.cf.toNat) ∧ StepTwoReads s src dst x u y ∧
      DstHolds w dst s t (BitVec.ofNat w.bits (u.toNat + y.toNat)) ∧
      (t.flags.cf = true ↔ 2 ^ w.bits ≤ d.toNat + s.flags.cf.toNat + y.toNat) ∧
      (t.flags.ovf = true ↔
        ¬ SignedFits w.bits (d.toInt + s.flags.cf.toNat) ∨ ¬ SignedFits w.bits (u.toInt + y.toInt)) ∧
      (t.flags.af = true ↔ 0xF < u.toNat % 16 + y.toNat % 16) ∧
      ResultFlags (BitVec.ofNat w.bits (u.toNat + y.toNat)) t.flags

/-- `sub` (R204). -/
def Obligations.SubResult : Prop :=
  ∀ (s : State) (w : Width) (src : Src) (dst : Dst) (d x : BitVec w.bits), s.Ready →
    (Instr.sub w src dst).wellFormed s.cfg = true → s.dstVal w dst = .ok d → s.srcVal w src = .ok x →
    ∃ t, exec (.sub w src dst) s = .next t ∧ Continues s t ∧
      DstHolds w dst s t (BitVec.ofNat w.bits (differenceNat d x)) ∧ DifferenceFlags d x t.flags ∧
      ResultFlags (BitVec.ofNat w.bits (differenceNat d x)) t.flags

/-- `sbb`, in two steps, with the aliasing rule (R205, R210). -/
def Obligations.SbbResult : Prop :=
  ∀ (s : State) (w : Width) (src : Src) (dst : Dst) (d x : BitVec w.bits), s.Ready →
    (Instr.sbb w src dst).wellFormed s.cfg = true → s.dstVal w dst = .ok d → s.srcVal w src = .ok x →
    ∃ (t : State) (u y : BitVec w.bits), exec (.sbb w src dst) s = .next t ∧ Continues s t ∧
      u = BitVec.ofNat w.bits (d.toNat + 2 ^ w.bits - s.flags.cf.toNat) ∧ StepTwoReads s src dst x u y ∧
      DstHolds w dst s t (BitVec.ofNat w.bits (differenceNat u y)) ∧
      (t.flags.cf = true ↔ d.toNat < s.flags.cf.toNat + y.toNat) ∧
      (t.flags.ovf = true ↔
        ¬ SignedFits w.bits (d.toInt - s.flags.cf.toNat) ∨ ¬ SignedFits w.bits (u.toInt - y.toInt)) ∧
      (t.flags.af = true ↔ u.toNat % 16 < y.toNat % 16) ∧
      ResultFlags (BitVec.ofNat w.bits (differenceNat u y)) t.flags

/-- `cmp` has the flags of `sub` and writes no operand (R206). -/
def Obligations.CmpResult : Prop :=
  ∀ (s : State) (w : Width) (src : Src) (dst : Dst) (d x : BitVec w.bits), s.Ready →
    (Instr.cmp w src dst).wellFormed s.cfg = true → s.dstVal w dst = .ok d → s.srcVal w src = .ok x →
    ∃ t, exec (.cmp w src dst) s = .next t ∧ Continues s t ∧ t.cells = s.cells ∧ t.mem = s.mem ∧
      DifferenceFlags d x t.flags ∧ ResultFlags (BitVec.ofNat w.bits (differenceNat d x)) t.flags

/-- `inc` and `dec` keep CF (R207, R208). -/
def Obligations.IncDecResult : Prop :=
  ∀ (s : State) (w : Width) (dst : Dst) (d : BitVec w.bits), s.Ready → (Instr.inc w dst).wellFormed s.cfg = true →
    s.dstVal w dst = .ok d →
    (∃ t, exec (.inc w dst) s = .next t ∧ Continues s t ∧ DstHolds w dst s t (BitVec.ofNat w.bits (d.toNat + 1)) ∧
      t.flags.cf = s.flags.cf ∧ SumOfAf d 1#w.bits t.flags ∧ ResultFlags (BitVec.ofNat w.bits (d.toNat + 1)) t.flags) ∧
    ∃ t, exec (.dec w dst) s = .next t ∧ Continues s t ∧ DstHolds w dst s t (BitVec.ofNat w.bits (differenceNat d 1#w.bits)) ∧
      t.flags.cf = s.flags.cf ∧ DifferenceOfAf d 1#w.bits t.flags ∧
      ResultFlags (BitVec.ofNat w.bits (differenceNat d 1#w.bits)) t.flags

/-- `neg`: the flags of `0 - d`, but CF is set unless the result is zero (R209). -/
def Obligations.NegResult : Prop :=
  ∀ (s : State) (w : Width) (dst : Dst) (d : BitVec w.bits), s.Ready → (Instr.neg w dst).wellFormed s.cfg = true →
    s.dstVal w dst = .ok d →
    ∃ t, exec (.neg w dst) s = .next t ∧ Continues s t ∧ DstHolds w dst s t (BitVec.ofNat w.bits (2 ^ w.bits - d.toNat)) ∧
      (t.flags.cf = true ↔ BitVec.ofNat w.bits (2 ^ w.bits - d.toNat) ≠ 0#w.bits) ∧ DifferenceOfAf 0#w.bits d t.flags ∧
      ResultFlags (BitVec.ofNat w.bits (2 ^ w.bits - d.toNat)) t.flags

/-! ## Logic (42_logic.md) -/

/-- `and`, `or`, `xor`, bit by bit: CF, OF and AF false, ZF, SF and PF from the result, and the rest of `CLEAR_SCOPE` cleared
(R240 to R243). -/
def Obligations.LogicResult : Prop :=
  ∀ p ∈ [((Instr.and : Width → Src → Dst → Instr), (fun a b : Bool => a && b)), (.or, fun a b => a || b), (.xor, fun a b => a != b)],
  ∀ (s : State) (w : Width) (src : Src) (dst : Dst) (d x : BitVec w.bits), s.Ready → (p.1 w src dst).wellFormed s.cfg = true →
    s.dstVal w dst = .ok d → s.srcVal w src = .ok x →
    ∃ (t : State) (r : BitVec w.bits), exec (p.1 w src dst) s = .next t ∧ Continues s t ∧
      (∀ k < w.bits, r.getLsbD k = p.2 (d.getLsbD k) (x.getLsbD k)) ∧ DstHolds w dst s t r ∧
      t.flags.cf = false ∧ t.flags.ovf = false ∧ t.flags.af = false ∧ ResultFlags r t.flags ∧ OtherFlagsCleared s t

/-- `test` has the flags of `and` and writes no operand (R244). -/
def Obligations.TestResult : Prop :=
  ∀ (s : State) (w : Width) (src : Src) (dst : Dst) (d x : BitVec w.bits), s.Ready →
    (Instr.test w src dst).wellFormed s.cfg = true → s.dstVal w dst = .ok d → s.srcVal w src = .ok x →
    ∃ t, exec (.test w src dst) s = .next t ∧ Continues s t ∧ t.cells = s.cells ∧ t.mem = s.mem ∧
      t.flags.cf = false ∧ t.flags.ovf = false ∧ t.flags.af = false ∧ ResultFlags (d &&& x) t.flags ∧ OtherFlagsCleared s t

/-- `not` complements its operand and touches no flag (R245). -/
def Obligations.NotResult : Prop :=
  ∀ (s : State) (w : Width) (dst : Dst) (d : BitVec w.bits), s.Ready → (Instr.not w dst).wellFormed s.cfg = true →
    s.dstVal w dst = .ok d →
    ∃ t, exec (.not w dst) s = .next t ∧ Continues s t ∧
      DstHolds w dst s t (BitVec.ofNat w.bits (2 ^ w.bits - 1 - d.toNat)) ∧ t.flags = s.flags

/-! ## Multiply and divide (43_multiply_divide.md) -/

/-- `mul`: the exact 64-bit product in `edx:eax`; CF and OF say that its high half is not zero. AF is free (R260). -/
def Obligations.MulResult : Prop :=
  ∀ (s : State) (src : Src) (x : Word), s.exit = false → s.srcVal .w32 src = .ok x →
    ∃ t, exec (.mul src) s = .next t ∧ Continues s t ∧
      (t.cell .edx).toNat * 2 ^ 32 + (t.cell .eax).toNat = (s.cell .eax).toNat * x.toNat ∧
      (t.flags.cf = true ↔ (t.cell .edx).toNat ≠ 0) ∧ (t.flags.ovf = true ↔ (t.cell .edx).toNat ≠ 0) ∧
      ResultFlags (t.cell .eax) t.flags

/-- `imul`: the exact signed product in `edx:eax`, or its low 32 bits in the destination; CF and OF say that the product does not fit
32 signed bits. ZF, SF, PF and AF are free (R261, R262). -/
def Obligations.ImulResult : Prop :=
  ∀ (s : State) (src : Src) (x : Word), s.exit = false → s.srcVal .w32 src = .ok x →
    (∃ t, exec (.imul src none) s = .next t ∧ Continues s t ∧
      (t.cell .edx ++ t.cell .eax).toInt = (s.cell .eax).toInt * x.toInt ∧
      (t.flags.cf = true ↔ ¬ SignedFits 32 ((s.cell .eax).toInt * x.toInt)) ∧ t.flags.ovf = t.flags.cf) ∧
    ∀ c : Cell, ∃ t, exec (.imul src (some c)) s = .next t ∧ Continues s t ∧
      ((t.cell c).toNat : Int) = (s.cell c).toInt * x.toInt % 2 ^ 32 ∧
      (t.flags.cf = true ↔ ¬ SignedFits 32 ((s.cell c).toInt * x.toInt)) ∧ t.flags.ovf = t.flags.cf

/-- A division whose quotient fits: `div` unsigned, `idiv` truncated toward zero with the dividend's sign on the remainder. The six
status flags are free (R263, R264). -/
def Obligations.DivideResult : Prop :=
  ∀ (s : State) (src : Src) (x : Word), s.exit = false → s.srcVal .w32 src = .ok x → x.toNat ≠ 0 →
    ((s.cell .edx ++ s.cell .eax).toNat / x.toNat < 2 ^ 32 →
      ∃ t, exec (.div src) s = .next t ∧ Continues s t ∧
        (t.cell .eax).toNat = (s.cell .edx ++ s.cell .eax).toNat / x.toNat ∧
        (t.cell .edx).toNat = (s.cell .edx ++ s.cell .eax).toNat % x.toNat) ∧
    (SignedFits 32 ((s.cell .edx ++ s.cell .eax).toInt.tdiv x.toInt) →
      ∃ t, exec (.idiv src) s = .next t ∧ Continues s t ∧
        (t.cell .eax).toInt = (s.cell .edx ++ s.cell .eax).toInt.tdiv x.toInt ∧
        (t.cell .edx).toInt = (s.cell .edx ++ s.cell .eax).toInt.tmod x.toInt)

/-- A zero divisor raises `DivisionByZero`, a quotient that does not fit 32 bits raises `QuotientOverflow`, and nothing is written
(R263, R264, R406). -/
def Obligations.DivideErrors : Prop :=
  ∀ (s : State) (src : Src) (x : Word), s.srcVal .w32 src = .ok x →
    (x.toNat = 0 →
      exec (.div src) s = .next { s with status := .halted (.error .divisionByZero) } ∧
      exec (.idiv src) s = .next { s with status := .halted (.error .divisionByZero) }) ∧
    (x.toNat ≠ 0 → 2 ^ 32 ≤ (s.cell .edx ++ s.cell .eax).toNat / x.toNat →
      exec (.div src) s = .next { s with status := .halted (.error .quotientOverflow) }) ∧
    (x.toNat ≠ 0 → ¬ SignedFits 32 ((s.cell .edx ++ s.cell .eax).toInt.tdiv x.toInt) →
      exec (.idiv src) s = .next { s with status := .halted (.error .quotientOverflow) })

/-! ## Shifts and rotates (44_shift_rotate.md) -/

/-- The rotates are the bit-stepped loops of the spec; OF is defined for one step only, and free from two on (R280 to R284). -/
def Obligations.RotateResult : Prop :=
  ∀ p ∈ rotateSpellings, ∀ (s : State) (w : Width) (count : Count) (dst : Dst) (d : BitVec w.bits), s.Ready →
    (p.1 w count dst).wellFormed s.cfg = true → s.dstVal w dst = .ok d →
    let n := rotateTimes s count
    let q := repeatTimes (p.2.1 w.bits) n (loopStart d s)
    ∃ (t : State) (r : BitVec w.bits), exec (p.1 w count dst) s = .next t ∧ Continues s t ∧ DstHolds w dst s t r ∧
      r.toNat = q.1 ∧ t.flags.cf = decide (q.2 = 1) ∧ (n = 0 → t.flags = s.flags) ∧
      (n = 1 → t.flags.ovf = p.2.2 w.bits q.1 q.2)

/-- The shifts are the bit-stepped loops of the spec; from one step on SF, ZF, PF and AF are free, and from two on OF is too (R280,
R285 to R287). -/
def Obligations.ShiftResult : Prop :=
  ∀ p ∈ shiftSpellings, ∀ (s : State) (w : Width) (count : Count) (dst : Dst) (d : BitVec w.bits), s.Ready →
    (p.1 w count dst).wellFormed s.cfg = true → s.dstVal w dst = .ok d →
    let n := shiftTimes s count
    let q := repeatTimes (p.2.1 (d.toNat / 2 ^ (w.bits - 1)) w.bits) n (loopStart d s)
    ∃ (t : State) (r : BitVec w.bits), exec (p.1 w count dst) s = .next t ∧ Continues s t ∧ DstHolds w dst s t r ∧
      r.toNat = q.1 ∧ t.flags.cf = decide (q.2 = 1) ∧ (n = 0 → t.flags = s.flags) ∧
      (n = 1 → t.flags.ovf = p.2.2 w.bits d.toNat q.1 q.2)

/-- The loops have the closed forms R288 allows: rotations, a rotation of the ring of `w + 1` bits through the carry, and shifts, with
the carry the corner cases of R281 to R287 name; and the laws of R289. -/
def Obligations.ShiftClosedForms : Prop :=
  ∀ (w : Width) (d : BitVec w.bits) (c c' : Bool) (n : Nat),
    (iterate rolStep n (d, c)).1 = d.rotateLeft n ∧ (iterate rorStep n (d, c)).1 = d.rotateRight n ∧
    (let p := iterate rclStep n (d, c); BitVec.ofBool p.2 ++ p.1 = (BitVec.ofBool c ++ d).rotateLeft n) ∧
    (let p := iterate rcrStep n (d, c); BitVec.ofBool p.2 ++ p.1 = (BitVec.ofBool c ++ d).rotateRight n) ∧
    (iterate shlStep n (d, c)).1 = d <<< n ∧ (iterate shrStep n (d, c)).1 = d >>> n ∧
    (iterate (sarStep d.msb) n (d, c)).1 = d.sshiftRight n ∧
    (0 < n →
      (iterate rolStep n (d, c)).2 = (d.rotateLeft n).getLsbD 0 ∧ (iterate rorStep n (d, c)).2 = (d.rotateRight n).msb ∧
      (iterate shlStep n (d, c)).2 = (decide (n ≤ w.bits) && d.getLsbD (w.bits - n)) ∧
      (iterate shrStep n (d, c)).2 = d.getLsbD (n - 1) ∧
      (iterate (sarStep d.msb) n (d, c)).2 = if n ≤ w.bits then d.getLsbD (n - 1) else d.msb) ∧
    (iterate rorStep n ((iterate rolStep n (d, c)).1, c')).1 = d ∧
    iterate rcrStep n (iterate rclStep n (d, c)) = (d, c) ∧
    (n ≤ w.bits → (∀ k, w.bits - n ≤ k → d.getLsbD k = false) →
      (iterate shrStep n ((iterate shlStep n (d, c)).1, c')).1 = d)

/-! ## Conditional instructions (45_conditional.md) -/

/-- `j<cc>` in its thirty spellings and `jmp`: the pc goes to the label's index if the condition holds and else to the next line, and
nothing else changes (R327, R368). -/
def Obligations.JumpResult : Prop :=
  ∀ (s : State) (target : Text) (k : Nat), s.exit = false → assoc target s.labels = some k →
    (∀ p ∈ jumpSpellings,
      exec (p.2 target) s = .next { s with pc := if condHolds s.flags p.1 then k else s.pc + 1 }) ∧
    exec (.jmp target) s = .next { s with pc := k }

/-- A label that is not in the table: `InvalidLabel`, taken or not, under the policy `halt`; under `skip` the next line, a `call`
having pushed its return address, modulo `2^32` as log 12 says (R327, R368, R369, R403). -/
def Obligations.MissingLabel : Prop :=
  ∀ (s : State) (target : Text), s.Ready → assoc target s.labels = none →
    (s.cfg.labelMissPolicy = .halt → ∀ mk ∈ jumpSpellings.map Prod.snd ++ [.jmp, .call],
      exec (mk target) s = .next { s with status := .halted (.error (.invalidLabel target)) }) ∧
    (s.cfg.labelMissPolicy = .skip →
      (∀ mk ∈ jumpSpellings.map Prod.snd ++ [.jmp], exec (mk target) s = .next { s with pc := s.pc + 1 }) ∧
      (s.inBounds (pushSlot s) 4 → ∃ t, exec (.call target) s = .next t ∧ Continues s t ∧
        t.cell .esp = s.cell .esp - 4 ∧ WordAt (pushSlot s) (BitVec.ofNat 32 (s.pc + 1)) t))

/-- `cmov<cc>` in its thirty spellings: the source is copied if the condition holds, and nothing changes but the pc if not (R328). -/
def Obligations.CmovResult : Prop :=
  ∀ p ∈ cmovSpellings, ∀ (s : State) (w : Width) (src : Src) (dst : Dst) (x : BitVec w.bits), s.Ready →
    (p.2 w src dst).wellFormed s.cfg = true → s.srcVal w src = .ok x → DstReachable w dst s →
    ∃ t, exec (p.2 w src dst) s = .next t ∧ Continues s t ∧ t.flags = s.flags ∧
      (condHolds s.flags p.1 = true → DstHolds w dst s t x) ∧
      (condHolds s.flags p.1 = false → t = { s with pc := s.pc + 1 })

/-- `set<cc>` in its thirty spellings: the byte 1 or 0 (R329). -/
def Obligations.SetResult : Prop :=
  ∀ p ∈ setSpellings, ∀ (s : State) (dst : Dst), s.Ready → (p.2 dst).wellFormed s.cfg = true → DstReachable .w8 dst s →
    ∃ t, exec (p.2 dst) s = .next t ∧ Continues s t ∧ t.flags = s.flags ∧
      DstHolds .w8 dst s t (if condHolds s.flags p.1 then 1#8 else 0#8)

/-! ## String instructions (46_string.md) -/

/-- `cmps` and `scas` at every width: the flags of the subtraction, and the pointer step (R340, R341, R343). -/
def Obligations.StringCompareResult : Prop :=
  (∀ p ∈ cmpsSpellings, ∀ (s : State) (a b : BitVec p.1.bits), s.exit = false →
    s.memRead (addrOf (s.cell .esi)) p.1 = .ok a → s.memRead (addrOf (s.cell .edi)) p.1 = .ok b →
    ∃ t, exec p.2 s = .next t ∧ Continues s t ∧ DifferenceFlags a b t.flags ∧
      ResultFlags (BitVec.ofNat p.1.bits (differenceNat a b)) t.flags ∧
      PointerMoved .esi p.1 s t ∧ PointerMoved .edi p.1 s t) ∧
  ∀ p ∈ scasSpellings, ∀ (s : State) (b : BitVec p.1.bits), s.exit = false →
    s.memRead (addrOf (s.cell .edi)) p.1 = .ok b →
    ∃ t, exec p.2 s = .next t ∧ Continues s t ∧ DifferenceFlags ((s.cell .eax).setWidth p.1.bits) b t.flags ∧
      ResultFlags (BitVec.ofNat p.1.bits (differenceNat ((s.cell .eax).setWidth p.1.bits) b)) t.flags ∧
      PointerMoved .edi p.1 s t

/-- `movs`, `stos` and `lods` at every width: the element moved, no flag written, and the pointer step (R340, R342, R344, R345). -/
def Obligations.StringMoveResult : Prop :=
  (∀ p ∈ movsSpellings, ∀ (s : State) (v : BitVec p.1.bits), s.Ready →
    s.memRead (addrOf (s.cell .esi)) p.1 = .ok v → s.inBounds (addrOf (s.cell .edi)) p.1.bytes →
    ∃ t, exec p.2 s = .next t ∧ Continues s t ∧ t.flags = s.flags ∧ t.memRead (addrOf (s.cell .edi)) p.1 = .ok v ∧
      PointerMoved .esi p.1 s t ∧ PointerMoved .edi p.1 s t) ∧
  (∀ p ∈ stosSpellings, ∀ s : State, s.Ready → s.inBounds (addrOf (s.cell .edi)) p.1.bytes →
    ∃ t, exec p.2 s = .next t ∧ Continues s t ∧ t.flags = s.flags ∧
      t.memRead (addrOf (s.cell .edi)) p.1 = .ok ((s.cell .eax).setWidth p.1.bits) ∧ PointerMoved .edi p.1 s t) ∧
  ∀ p ∈ lodsSpellings, ∀ (s : State) (v : BitVec p.1.bits), s.exit = false →
    s.memRead (addrOf (s.cell .esi)) p.1 = .ok v →
    ∃ t, exec p.2 s = .next t ∧ Continues s t ∧ t.flags = s.flags ∧ (t.cell .eax).setWidth p.1.bits = v ∧
      PointerMoved .esi p.1 s t

/-! ## Data movement, stack, flag transfer and control (47_data_stack_control.md) -/

/-- `mov`: the source's value in the destination, after the flag clear the parameters ask for (R171, R360). -/
def Obligations.MovResult : Prop :=
  ∀ (s : State) (w : Width) (src : Src) (dst : Dst) (x : BitVec w.bits), s.Ready →
    (Instr.mov w src dst).wellFormed s.cfg = true → s.srcVal w src = .ok x → DstReachable w dst s →
    ∃ t, exec (.mov w src dst) s = .next t ∧ Continues s t ∧ DstHolds w dst s t x ∧
      ∀ n, t.flags.get n =
        if s.cfg.clearBeforeMov = true ∧ n ∈ clearSet s.cfg.clearScope then false else s.flags.get n

/-- `push`: `esp` falls by 4 and the value stands at the new `esp`; `pop`: the word at `esp` goes to the destination resolved before
`esp` rises by 4. `push %esp` stores and `pop %esp` leaves what `PUSH_POP_ESP` allows, under `either` one of two values (R361 to
R363). -/
def Obligations.PushPopResult : Prop :=
  ∀ s : State, s.Ready →
    (∀ (src : Src) (x : Word), s.srcVal .w32 src = .ok x → s.inBounds (pushSlot s) 4 →
      ∃ t v, exec (.push src) s = .next t ∧ Continues s t ∧ t.flags = s.flags ∧ t.cell .esp = s.cell .esp - 4 ∧
        WordAt (pushSlot s) v t ∧ (src ≠ .reg (.r32 .esp) → v = x) ∧
        (src = .reg (.r32 .esp) → EspChoice s.cfg.pushPopEsp x (x - 4) v)) ∧
    ∀ (dst : Dst) (v : Word), (Instr.pop dst).wellFormed s.cfg = true → WordAt (addrOf (s.cell .esp)) v s →
      DstReachable .w32 dst s →
      ∃ t, exec (.pop dst) s = .next t ∧ Continues s t ∧ t.flags = s.flags ∧
        (dst ≠ .reg (.r32 .esp) → DstHolds .w32 dst s t v ∧ t.cell .esp = s.cell .esp + 4) ∧
        (dst = .reg (.r32 .esp) → EspChoice s.cfg.pushPopEsp v (v + 4) (t.cell .esp))

/-- `pushf` and `popf` in their spellings, `lahf` and `sahf`: the packed word and its low byte (R364 to R367). -/
def Obligations.FlagTransfer : Prop :=
  ∀ s : State, s.Ready →
    (∀ i ∈ pushfSpellings, s.inBounds (pushSlot s) 4 →
      ∃ t v, exec i s = .next t ∧ Continues s t ∧ t.flags = s.flags ∧ t.cell .esp = s.cell .esp - 4 ∧
        WordAt (pushSlot s) v t ∧ ∀ k < 32, v.getLsbD k = packedBit s.flags k) ∧
    (∀ i ∈ popfSpellings, ∀ v, WordAt (addrOf (s.cell .esp)) v s →
      ∃ t, exec i s = .next t ∧ Continues s t ∧ t.cell .esp = s.cell .esp + 4 ∧ ∀ n, t.flags.get n = v.getLsbD n.pos) ∧
    (∃ t, exec .lahf s = .next t ∧ Continues s t ∧ t.flags = s.flags ∧
      ∀ k < 8, (t.cell .eax).getLsbD (8 + k) = packedBit s.flags k) ∧
    ∃ t, exec .sahf s = .next t ∧ Continues s t ∧
      ∀ n, t.flags.get n = if n.pos < 8 then (s.cell .eax).getLsbD (8 + n.pos) else s.flags.get n

/-- `call` pushes the next index and goes to the label; `ret` goes to the popped index and adds its size to `esp` (R369, R370). The
index is pushed modulo `2^32`, which is the model's choice where it does not fit (log 12). -/
def Obligations.CallRetResult : Prop :=
  ∀ s : State, s.Ready →
    (∀ target k, assoc target s.labels = some k → s.inBounds (pushSlot s) 4 →
      ∃ t, exec (.call target) s = .next t ∧ GoesTo k s t ∧ t.flags = s.flags ∧ t.cell .esp = s.cell .esp - 4 ∧
        WordAt (pushSlot s) (BitVec.ofNat 32 (s.pc + 1)) t) ∧
    ∀ (size : Option (BitVec 16)) (v : Word), WordAt (addrOf (s.cell .esp)) v s →
      ∃ t, exec (.ret size) s = .next t ∧ GoesTo v.toNat s t ∧ t.flags = s.flags ∧
        (t.cell .esp).toNat = ((s.cell .esp).toNat + 4 + (size.getD 0).toNat) % 2 ^ 32

/-- `enter`: `ebp` is pushed, then for a level above 0 the outer frame pointers and the new frame pointer; `ebp` is the frame pointer
and `esp` falls by the size (R371). A frame pointer is copied as it stood before the instruction where its word is apart from every
slot; where they overlap the model reads what it has just written (log 9), and this says nothing. -/
def Obligations.EnterResult : Prop :=
  ∀ (s : State) (size : BitVec 16) (level : Option Byte), s.Ready →
    (∀ k ≤ enterLevel level, s.inBounds (stackSlot s k) 4) →
    (∀ i, 1 ≤ i → i < enterLevel level → s.inBounds (displaySlot s i) 4) →
    ∃ t, exec (.enter size level) s = .next t ∧ Continues s t ∧ t.flags = s.flags ∧ t.cell .ebp = s.cell .esp - 4 ∧
      t.cell .esp = s.cell .esp - BitVec.ofNat 32 (4 * (enterLevel level + 1) + size.toNat) ∧
      WordAt (stackSlot s 0) (s.cell .ebp) t ∧
      (0 < enterLevel level → WordAt (stackSlot s (enterLevel level)) (s.cell .esp - 4) t) ∧
      ∀ i v, 1 ≤ i → i < enterLevel level → WordAt (displaySlot s i) v s →
        (∀ k ≤ enterLevel level, displaySlot s i + 4 ≤ stackSlot s k ∨ stackSlot s k + 4 ≤ displaySlot s i) →
        WordAt (stackSlot s i) v t

/-- `leave`: `esp` is the slot above the one `ebp` names, and `ebp` the word in it (R372). -/
def Obligations.LeaveResult : Prop :=
  ∀ (s : State) (v : Word), s.exit = false → WordAt (addrOf (s.cell .ebp)) v s →
    ∃ t, exec .leave s = .next t ∧ Continues s t ∧ t.flags = s.flags ∧ t.cell .esp = s.cell .ebp + 4 ∧ t.cell .ebp = v

/-- `nop` advances the pc only; the exit instruction sets the exit flag, advances the pc and halts the run (R373, R374). -/
def Obligations.NopAndExit : Prop :=
  ∀ s : State,
    (s.exit = false → exec .nop s = .next { s with pc := s.pc + 1 }) ∧
    exec .hlt s = .next { s with exit := true, pc := s.pc + 1, status := .halted .exit }

/-! ## Accesses out of bounds (20_memory.md, 60_exceptions.md) -/

/-- An operand, a stack slot or a string element out of bounds halts the run with `OutOfBoundsMemoryAccess`, its address and length,
and nothing is written (R84, R402). -/
def Obligations.OutOfBoundsAccess : Prop :=
  (∀ mk ∈ binarySpellings, ∀ (s : State) (w : Width) (src : Src) (dst : Dst) (m : MemRef),
    (mk w src dst).wellFormed s.cfg = true → src = .mem m ∨ dst = .mem m →
    HaltsOutside s (s.ea m) w.bytes (exec (mk w src dst) s)) ∧
  ∀ (s : State) (m : MemRef),
    (∀ mk ∈ unarySpellings, ∀ w, HaltsOutside s (s.ea m) w.bytes (exec (mk w (.mem m)) s)) ∧
    (∀ mk ∈ rotateSpellings.map Prod.fst ++ shiftSpellings.map Prod.fst, ∀ w count,
      HaltsOutside s (s.ea m) w.bytes (exec (mk w count (.mem m)) s)) ∧
    (∀ mk ∈ setSpellings.map Prod.snd, HaltsOutside s (s.ea m) 1 (exec (mk (.mem m)) s)) ∧
    (∀ i ∈ [Instr.mul (.mem m), .div (.mem m), .idiv (.mem m), .push (.mem m)], HaltsOutside s (s.ea m) 4 (exec i s)) ∧
    (∀ dst, HaltsOutside s (s.ea m) 4 (exec (.imul (.mem m) dst) s)) ∧
    (s.inBounds (addrOf (s.cell .esp)) 4 → HaltsOutside s (s.ea m) 4 (exec (.pop (.mem m)) s)) ∧
    (∀ src x, s.srcVal .w32 src = .ok x → HaltsOutside s (pushSlot s) 4 (exec (.push src) s)) ∧
    (∀ i ∈ pushfSpellings, HaltsOutside s (pushSlot s) 4 (exec i s)) ∧
    (∀ target, assoc target s.labels ≠ none → HaltsOutside s (pushSlot s) 4 (exec (.call target) s)) ∧
    (∀ size level, HaltsOutside s (pushSlot s) 4 (exec (.enter size level) s)) ∧
    (∀ dst, HaltsOutside s (addrOf (s.cell .esp)) 4 (exec (.pop dst) s)) ∧
    (∀ i ∈ popfSpellings, HaltsOutside s (addrOf (s.cell .esp)) 4 (exec i s)) ∧
    (∀ size, HaltsOutside s (addrOf (s.cell .esp)) 4 (exec (.ret size) s)) ∧
    HaltsOutside s (addrOf (s.cell .ebp)) 4 (exec .leave s) ∧
    (∀ p ∈ cmpsSpellings ++ movsSpellings,
      HaltsOutside s (addrOf (s.cell .esi)) p.1.bytes (exec p.2 s) ∧
      (s.inBounds (addrOf (s.cell .esi)) p.1.bytes → HaltsOutside s (addrOf (s.cell .edi)) p.1.bytes (exec p.2 s))) ∧
    (∀ p ∈ scasSpellings ++ stosSpellings, HaltsOutside s (addrOf (s.cell .edi)) p.1.bytes (exec p.2 s)) ∧
    ∀ p ∈ lodsSpellings, HaltsOutside s (addrOf (s.cell .esi)) p.1.bytes (exec p.2 s)

end
end

