-- ==== Sys2Proof/Laws/Memory.lean ====
section
/-! SUPPORT. The bytes of memory: read after write, and every operation keeps the canonical form and the bounds. -/

namespace Sys2Proof.Machine

/-! ## Reading what is not listed -/

theorem Memory.wfFrom_mono {lo lo' : Nat} (h : lo' ≤ lo) {m : Memory} (hm : Memory.wfFrom lo m = true) :
    Memory.wfFrom lo' m = true := by
  cases m with
  | nil => rfl
  | cons c m =>
    simp only [Memory.wfFrom, Bool.and_eq_true, decide_eq_true_eq] at hm ⊢
    exact ⟨⟨by omega, hm.1.2⟩, hm.2⟩

theorem readByte_below {lo a : Nat} (ha : a < lo) {m : Memory} (hm : Memory.wfFrom lo m = true) :
    readByte m a = unlistedByte := by
  induction m generalizing lo with
  | nil => rfl
  | cons c m ih =>
    obtain ⟨x, b⟩ := c
    simp only [Memory.wfFrom, Bool.and_eq_true, decide_eq_true_eq] at hm
    rw [readByte, if_neg (by omega)]
    exact ih (by omega) hm.2

/-! ## Read after write -/

theorem readByte_entry (a d : Nat) (b : Byte) :
    readByte (entry a b) d = if d = a then b else unlistedByte := by
  unfold entry
  by_cases hb : b = unlistedByte
  · simp [hb, readByte]
  · by_cases hd : d = a
    · simp [hb, hd, readByte]
    · simp [hb, readByte, hd, Ne.symm hd]

theorem readByte_entry_append (a d : Nat) (b : Byte) {m : Memory} (hm : Memory.wfFrom (a + 1) m = true) :
    readByte (entry a b ++ m) d = if d = a then b else readByte m d := by
  unfold entry
  by_cases hb : b = unlistedByte
  · by_cases hd : d = a
    · simp [hb, hd, readByte_below (Nat.lt_succ_self a) hm]
    · simp [hb, hd]
  · by_cases hd : d = a
    · simp [hb, hd, readByte]
    · simp [hb, readByte, hd, Ne.symm hd]

/-- A byte reads as written, and every other address as before. -/
theorem readByte_writeByte {lo : Nat} {m : Memory} (hm : Memory.wfFrom lo m = true) (a d : Nat) (b : Byte) :
    readByte (writeByte m a b) d = if d = a then b else readByte m d := by
  induction m generalizing lo with
  | nil => simp [writeByte, readByte_entry, readByte]
  | cons c m ih =>
    obtain ⟨x, e⟩ := c
    have hall := hm
    simp only [Memory.wfFrom, Bool.and_eq_true, decide_eq_true_eq] at hm
    unfold writeByte
    by_cases hlt : a < x
    · rw [if_pos hlt, readByte_entry_append]
      simp only [Memory.wfFrom, Bool.and_eq_true, decide_eq_true_eq]
      exact ⟨⟨by omega, hm.1.2⟩, hm.2⟩
    · rw [if_neg hlt]
      by_cases heq : a = x
      · subst heq
        rw [if_pos rfl, readByte_entry_append _ _ _ hm.2]
        by_cases hd : d = a
        · simp [hd]
        · simp [hd, readByte, Ne.symm hd]
      · rw [if_neg heq]
        by_cases hd : x = d
        · have : d ≠ a := by omega
          simp [readByte, hd, this]
        · simp [readByte, hd, ih hm.2]

/-! ## The canonical form -/

theorem Memory.wfFrom_entry_append {lo a : Nat} (h : lo ≤ a) (b : Byte) {m : Memory}
    (hm : Memory.wfFrom (a + 1) m = true) : Memory.wfFrom lo (entry a b ++ m) = true := by
  unfold entry
  by_cases hb : b = unlistedByte
  · simpa [hb] using Memory.wfFrom_mono (by omega) hm
  · simp [hb, Memory.wfFrom, h, hm]

theorem Memory.wfFrom_writeByte {lo : Nat} {m : Memory} (hm : Memory.wfFrom lo m = true) {a : Nat} (h : lo ≤ a) (b : Byte) :
    Memory.wfFrom lo (writeByte m a b) = true := by
  induction m generalizing lo with
  | nil =>
    have := Memory.wfFrom_entry_append h b (m := []) rfl
    simpa [writeByte] using this
  | cons c m ih =>
    obtain ⟨x, e⟩ := c
    simp only [Memory.wfFrom, Bool.and_eq_true, decide_eq_true_eq] at hm
    unfold writeByte
    by_cases hlt : a < x
    · rw [if_pos hlt]
      refine Memory.wfFrom_entry_append h b ?_
      simp only [Memory.wfFrom, Bool.and_eq_true, decide_eq_true_eq]
      exact ⟨⟨by omega, hm.1.2⟩, hm.2⟩
    · rw [if_neg hlt]
      by_cases heq : a = x
      · subst heq
        rw [if_pos rfl]
        exact Memory.wfFrom_entry_append h b hm.2
      · rw [if_neg heq]
        simp only [Memory.wfFrom, Bool.and_eq_true, decide_eq_true_eq]
        exact ⟨hm.1, ih hm.2 (by omega)⟩

theorem Memory.wf_writeByte {m : Memory} (hm : Memory.wf m = true) (a : Nat) (b : Byte) :
    Memory.wf (writeByte m a b) = true :=
  Memory.wfFrom_writeByte hm (Nat.zero_le a) b

/-- A store keeps the canonical form. -/
theorem Memory.wf_writeBytes {m : Memory} (hm : Memory.wf m = true) (a n v : Nat) :
    Memory.wf (writeBytes m a n v) = true := by
  induction n generalizing m a v with
  | zero => exact hm
  | succ n ih => exact ih (Memory.wf_writeByte hm a _) (a + 1) (v / 256)

/-! ## Inside the memory's size -/

theorem Memory.within_entry {size a : Nat} (h : a < size) (b : Byte) : Memory.within size (entry a b) = true := by
  unfold entry
  split <;> simp [Memory.within, h]

theorem Memory.within_append {size : Nat} {m m' : Memory} (h : Memory.within size m = true)
    (h' : Memory.within size m' = true) : Memory.within size (m ++ m') = true := by
  simp only [Memory.within, List.all_append, Bool.and_eq_true] at *
  exact ⟨h, h'⟩

theorem Memory.within_writeByte {size : Nat} {m : Memory} (hm : Memory.within size m = true) {a : Nat} (h : a < size)
    (b : Byte) : Memory.within size (writeByte m a b) = true := by
  induction m with
  | nil => exact Memory.within_entry h b
  | cons c m ih =>
    obtain ⟨x, e⟩ := c
    have hm' : Memory.within size m = true := by
      simp only [Memory.within, List.all_cons, Bool.and_eq_true] at hm ⊢
      exact hm.2
    unfold writeByte
    split
    · exact Memory.within_append (Memory.within_entry h b) hm
    · split
      · exact Memory.within_append (Memory.within_entry h b) hm'
      · have := ih hm'
        simp only [Memory.within, List.all_cons, Bool.and_eq_true] at hm this ⊢
        exact ⟨hm.1, this⟩

/-- A store inside the memory's size leaves every listed byte inside it. -/
theorem Memory.within_writeBytes {size : Nat} {m : Memory} (hm : Memory.within size m = true) {a n : Nat}
    (h : a + n ≤ size) (v : Nat) : Memory.within size (writeBytes m a n v) = true := by
  induction n generalizing m a v with
  | zero => exact hm
  | succ n ih => exact ih (Memory.within_writeByte hm (by omega) _) (by omega) (v / 256)

/-! ## Wide accesses -/

/-- A store changes no byte outside `[a, a+n)` (R83). -/
theorem readByte_writeBytes_outside {m : Memory} (hm : Memory.wf m = true) (a n v : Nat) {d : Nat} (h : d < a ∨ a + n ≤ d) :
    readByte (writeBytes m a n v) d = readByte m d := by
  induction n generalizing m a v with
  | zero => rfl
  | succ n ih =>
    unfold writeBytes
    rw [ih (Memory.wf_writeByte hm a _) (a + 1) (v / 256) (by omega), readByte_writeByte hm, if_neg (by omega)]

/-- Byte `i` of a store is `v[8i+7:8i]` (R83). -/
theorem readByte_writeBytes_inside {m : Memory} (hm : Memory.wf m = true) (a n v : Nat) {i : Nat} (h : i < n) :
    readByte (writeBytes m a n v) (a + i) = BitVec.ofNat 8 (v / 256 ^ i) := by
  induction n generalizing m a v i with
  | zero => omega
  | succ n ih =>
    unfold writeBytes
    cases i with
    | zero =>
      rw [readByte_writeBytes_outside (Memory.wf_writeByte hm a _) _ _ _ (by omega), readByte_writeByte hm]
      simp
    | succ i =>
      have := ih (Memory.wf_writeByte hm a (BitVec.ofNat 8 v)) (a + 1) (v / 256) (i := i) (by omega)
      rw [show a + (i + 1) = a + 1 + i by omega, this, Nat.div_div_eq_div_mul, ← Nat.pow_succ']

theorem readBytes_lt (m : Memory) (a n : Nat) : readBytes m a n < 256 ^ n := by
  induction n generalizing a with
  | zero => simp [readBytes]
  | succ n ih =>
    have h1 := ih (a + 1)
    have h2 := (readByte m a).isLt
    rw [readBytes, Nat.pow_succ]
    omega

theorem readBytes_congr {m m' : Memory} {a n : Nat} (h : ∀ d, a ≤ d → d < a + n → readByte m d = readByte m' d) :
    readBytes m a n = readBytes m' a n := by
  induction n generalizing a with
  | zero => rfl
  | succ n ih =>
    rw [readBytes, readBytes, h a (Nat.le_refl a) (by omega), ih fun d h1 h2 => h d (by omega) (by omega)]

/-- A load of the bytes a store wrote gives the value stored (R82, R83). -/
theorem readBytes_writeBytes {m : Memory} (hm : Memory.wf m = true) (a n v : Nat) :
    readBytes (writeBytes m a n v) a n = v % 256 ^ n := by
  induction n generalizing m a v with
  | zero => simp [readBytes, Nat.mod_one]
  | succ n ih =>
    rw [readBytes, writeBytes, ih (Memory.wf_writeByte hm a _),
      readByte_writeBytes_outside (Memory.wf_writeByte hm a _) _ _ _ (by omega), readByte_writeByte hm]
    have := Nat.mod_mul (x := v) (a := 256) (b := 256 ^ n)
    simp only [if_true, BitVec.toNat_ofNat, Nat.pow_succ']
    omega

end Sys2Proof.Machine
end

