-- ==== Sys2Proof/Laws/State.lean ====
section
/-! SUPPORT. The fields of an updated state, one lemma per field per update. -/

namespace Sys2Proof.Machine

@[simp] theorem State.withCells_cells (cs : Cells) (s : State) : (s.withCells cs).cells = cs := rfl
@[simp] theorem State.withCells_flags (cs : Cells) (s : State) : (s.withCells cs).flags = s.flags := rfl
@[simp] theorem State.withCells_pc (cs : Cells) (s : State) : (s.withCells cs).pc = s.pc := rfl
@[simp] theorem State.withCells_exit (cs : Cells) (s : State) : (s.withCells cs).exit = s.exit := rfl
@[simp] theorem State.withCells_mem (cs : Cells) (s : State) : (s.withCells cs).mem = s.mem := rfl
@[simp] theorem State.withCells_program (cs : Cells) (s : State) : (s.withCells cs).program = s.program := rfl
@[simp] theorem State.withCells_stream (cs : Cells) (s : State) : (s.withCells cs).stream = s.stream := rfl
@[simp] theorem State.withCells_labels (cs : Cells) (s : State) : (s.withCells cs).labels = s.labels := rfl
@[simp] theorem State.withCells_status (cs : Cells) (s : State) : (s.withCells cs).status = s.status := rfl
@[simp] theorem State.withCells_cfg (cs : Cells) (s : State) : (s.withCells cs).cfg = s.cfg := rfl
@[simp] theorem State.withCells_draws (cs : Cells) (s : State) : (s.withCells cs).draws = s.draws := rfl

@[simp] theorem State.withFlags_cells (f : Flags) (s : State) : (s.withFlags f).cells = s.cells := rfl
@[simp] theorem State.withFlags_flags (f : Flags) (s : State) : (s.withFlags f).flags = f := rfl
@[simp] theorem State.withFlags_pc (f : Flags) (s : State) : (s.withFlags f).pc = s.pc := rfl
@[simp] theorem State.withFlags_exit (f : Flags) (s : State) : (s.withFlags f).exit = s.exit := rfl
@[simp] theorem State.withFlags_mem (f : Flags) (s : State) : (s.withFlags f).mem = s.mem := rfl
@[simp] theorem State.withFlags_program (f : Flags) (s : State) : (s.withFlags f).program = s.program := rfl
@[simp] theorem State.withFlags_stream (f : Flags) (s : State) : (s.withFlags f).stream = s.stream := rfl
@[simp] theorem State.withFlags_labels (f : Flags) (s : State) : (s.withFlags f).labels = s.labels := rfl
@[simp] theorem State.withFlags_status (f : Flags) (s : State) : (s.withFlags f).status = s.status := rfl
@[simp] theorem State.withFlags_cfg (f : Flags) (s : State) : (s.withFlags f).cfg = s.cfg := rfl
@[simp] theorem State.withFlags_draws (f : Flags) (s : State) : (s.withFlags f).draws = s.draws := rfl

@[simp] theorem State.withPc_cells (n : Nat) (s : State) : (s.withPc n).cells = s.cells := rfl
@[simp] theorem State.withPc_flags (n : Nat) (s : State) : (s.withPc n).flags = s.flags := rfl
@[simp] theorem State.withPc_pc (n : Nat) (s : State) : (s.withPc n).pc = n := rfl
@[simp] theorem State.withPc_exit (n : Nat) (s : State) : (s.withPc n).exit = s.exit := rfl
@[simp] theorem State.withPc_mem (n : Nat) (s : State) : (s.withPc n).mem = s.mem := rfl
@[simp] theorem State.withPc_program (n : Nat) (s : State) : (s.withPc n).program = s.program := rfl
@[simp] theorem State.withPc_stream (n : Nat) (s : State) : (s.withPc n).stream = s.stream := rfl
@[simp] theorem State.withPc_labels (n : Nat) (s : State) : (s.withPc n).labels = s.labels := rfl
@[simp] theorem State.withPc_status (n : Nat) (s : State) : (s.withPc n).status = s.status := rfl
@[simp] theorem State.withPc_cfg (n : Nat) (s : State) : (s.withPc n).cfg = s.cfg := rfl
@[simp] theorem State.withPc_draws (n : Nat) (s : State) : (s.withPc n).draws = s.draws := rfl

@[simp] theorem State.withExit_cells (b : Bool) (s : State) : (s.withExit b).cells = s.cells := rfl
@[simp] theorem State.withExit_flags (b : Bool) (s : State) : (s.withExit b).flags = s.flags := rfl
@[simp] theorem State.withExit_pc (b : Bool) (s : State) : (s.withExit b).pc = s.pc := rfl
@[simp] theorem State.withExit_exit (b : Bool) (s : State) : (s.withExit b).exit = b := rfl
@[simp] theorem State.withExit_mem (b : Bool) (s : State) : (s.withExit b).mem = s.mem := rfl
@[simp] theorem State.withExit_program (b : Bool) (s : State) : (s.withExit b).program = s.program := rfl
@[simp] theorem State.withExit_stream (b : Bool) (s : State) : (s.withExit b).stream = s.stream := rfl
@[simp] theorem State.withExit_labels (b : Bool) (s : State) : (s.withExit b).labels = s.labels := rfl
@[simp] theorem State.withExit_status (b : Bool) (s : State) : (s.withExit b).status = s.status := rfl
@[simp] theorem State.withExit_cfg (b : Bool) (s : State) : (s.withExit b).cfg = s.cfg := rfl
@[simp] theorem State.withExit_draws (b : Bool) (s : State) : (s.withExit b).draws = s.draws := rfl

@[simp] theorem State.withMem_cells (m : Memory) (s : State) : (s.withMem m).cells = s.cells := rfl
@[simp] theorem State.withMem_flags (m : Memory) (s : State) : (s.withMem m).flags = s.flags := rfl
@[simp] theorem State.withMem_pc (m : Memory) (s : State) : (s.withMem m).pc = s.pc := rfl
@[simp] theorem State.withMem_exit (m : Memory) (s : State) : (s.withMem m).exit = s.exit := rfl
@[simp] theorem State.withMem_mem (m : Memory) (s : State) : (s.withMem m).mem = m := rfl
@[simp] theorem State.withMem_program (m : Memory) (s : State) : (s.withMem m).program = s.program := rfl
@[simp] theorem State.withMem_stream (m : Memory) (s : State) : (s.withMem m).stream = s.stream := rfl
@[simp] theorem State.withMem_labels (m : Memory) (s : State) : (s.withMem m).labels = s.labels := rfl
@[simp] theorem State.withMem_status (m : Memory) (s : State) : (s.withMem m).status = s.status := rfl
@[simp] theorem State.withMem_cfg (m : Memory) (s : State) : (s.withMem m).cfg = s.cfg := rfl
@[simp] theorem State.withMem_draws (m : Memory) (s : State) : (s.withMem m).draws = s.draws := rfl

@[simp] theorem State.withStatus_cells (st : Status) (s : State) : (s.withStatus st).cells = s.cells := rfl
@[simp] theorem State.withStatus_flags (st : Status) (s : State) : (s.withStatus st).flags = s.flags := rfl
@[simp] theorem State.withStatus_pc (st : Status) (s : State) : (s.withStatus st).pc = s.pc := rfl
@[simp] theorem State.withStatus_exit (st : Status) (s : State) : (s.withStatus st).exit = s.exit := rfl
@[simp] theorem State.withStatus_mem (st : Status) (s : State) : (s.withStatus st).mem = s.mem := rfl
@[simp] theorem State.withStatus_program (st : Status) (s : State) : (s.withStatus st).program = s.program := rfl
@[simp] theorem State.withStatus_stream (st : Status) (s : State) : (s.withStatus st).stream = s.stream := rfl
@[simp] theorem State.withStatus_labels (st : Status) (s : State) : (s.withStatus st).labels = s.labels := rfl
@[simp] theorem State.withStatus_status (st : Status) (s : State) : (s.withStatus st).status = st := rfl
@[simp] theorem State.withStatus_cfg (st : Status) (s : State) : (s.withStatus st).cfg = s.cfg := rfl
@[simp] theorem State.withStatus_draws (st : Status) (s : State) : (s.withStatus st).draws = s.draws := rfl

@[simp] theorem State.withDraws_cells (n : Nat) (s : State) : (s.withDraws n).cells = s.cells := rfl
@[simp] theorem State.withDraws_flags (n : Nat) (s : State) : (s.withDraws n).flags = s.flags := rfl
@[simp] theorem State.withDraws_pc (n : Nat) (s : State) : (s.withDraws n).pc = s.pc := rfl
@[simp] theorem State.withDraws_exit (n : Nat) (s : State) : (s.withDraws n).exit = s.exit := rfl
@[simp] theorem State.withDraws_mem (n : Nat) (s : State) : (s.withDraws n).mem = s.mem := rfl
@[simp] theorem State.withDraws_program (n : Nat) (s : State) : (s.withDraws n).program = s.program := rfl
@[simp] theorem State.withDraws_stream (n : Nat) (s : State) : (s.withDraws n).stream = s.stream := rfl
@[simp] theorem State.withDraws_labels (n : Nat) (s : State) : (s.withDraws n).labels = s.labels := rfl
@[simp] theorem State.withDraws_status (n : Nat) (s : State) : (s.withDraws n).status = s.status := rfl
@[simp] theorem State.withDraws_cfg (n : Nat) (s : State) : (s.withDraws n).cfg = s.cfg := rfl
@[simp] theorem State.withDraws_draws (n : Nat) (s : State) : (s.withDraws n).draws = n := rfl

@[simp] theorem State.setCell_cells (c : Cell) (v : Word) (s : State) : (s.setCell c v).cells = s.cells.set v c := rfl
@[simp] theorem State.setCell_flags (c : Cell) (v : Word) (s : State) : (s.setCell c v).flags = s.flags := rfl
@[simp] theorem State.setCell_pc (c : Cell) (v : Word) (s : State) : (s.setCell c v).pc = s.pc := rfl
@[simp] theorem State.setCell_exit (c : Cell) (v : Word) (s : State) : (s.setCell c v).exit = s.exit := rfl
@[simp] theorem State.setCell_mem (c : Cell) (v : Word) (s : State) : (s.setCell c v).mem = s.mem := rfl
@[simp] theorem State.setCell_program (c : Cell) (v : Word) (s : State) : (s.setCell c v).program = s.program := rfl
@[simp] theorem State.setCell_stream (c : Cell) (v : Word) (s : State) : (s.setCell c v).stream = s.stream := rfl
@[simp] theorem State.setCell_labels (c : Cell) (v : Word) (s : State) : (s.setCell c v).labels = s.labels := rfl
@[simp] theorem State.setCell_status (c : Cell) (v : Word) (s : State) : (s.setCell c v).status = s.status := rfl
@[simp] theorem State.setCell_cfg (c : Cell) (v : Word) (s : State) : (s.setCell c v).cfg = s.cfg := rfl
@[simp] theorem State.setCell_draws (c : Cell) (v : Word) (s : State) : (s.setCell c v).draws = s.draws := rfl

@[simp] theorem State.writeReg_flags (s : State) (r : Reg) (v : BitVec r.width.bits) : (s.writeReg r v).flags = s.flags := rfl
@[simp] theorem State.writeReg_pc (s : State) (r : Reg) (v : BitVec r.width.bits) : (s.writeReg r v).pc = s.pc := rfl
@[simp] theorem State.writeReg_exit (s : State) (r : Reg) (v : BitVec r.width.bits) : (s.writeReg r v).exit = s.exit := rfl
@[simp] theorem State.writeReg_mem (s : State) (r : Reg) (v : BitVec r.width.bits) : (s.writeReg r v).mem = s.mem := rfl
@[simp] theorem State.writeReg_program (s : State) (r : Reg) (v : BitVec r.width.bits) : (s.writeReg r v).program = s.program := rfl
@[simp] theorem State.writeReg_stream (s : State) (r : Reg) (v : BitVec r.width.bits) : (s.writeReg r v).stream = s.stream := rfl
@[simp] theorem State.writeReg_labels (s : State) (r : Reg) (v : BitVec r.width.bits) : (s.writeReg r v).labels = s.labels := rfl
@[simp] theorem State.writeReg_status (s : State) (r : Reg) (v : BitVec r.width.bits) : (s.writeReg r v).status = s.status := rfl
@[simp] theorem State.writeReg_cfg (s : State) (r : Reg) (v : BitVec r.width.bits) : (s.writeReg r v).cfg = s.cfg := rfl
@[simp] theorem State.writeReg_draws (s : State) (r : Reg) (v : BitVec r.width.bits) : (s.writeReg r v).draws = s.draws := rfl

@[simp] theorem State.advance_cells (s : State) : s.advance.cells = s.cells := rfl
@[simp] theorem State.advance_flags (s : State) : s.advance.flags = s.flags := rfl
@[simp] theorem State.advance_pc (s : State) : s.advance.pc = s.pc + 1 := rfl
@[simp] theorem State.advance_exit (s : State) : s.advance.exit = s.exit := rfl
@[simp] theorem State.advance_mem (s : State) : s.advance.mem = s.mem := rfl
@[simp] theorem State.advance_program (s : State) : s.advance.program = s.program := rfl
@[simp] theorem State.advance_stream (s : State) : s.advance.stream = s.stream := rfl
@[simp] theorem State.advance_labels (s : State) : s.advance.labels = s.labels := rfl
@[simp] theorem State.advance_status (s : State) : s.advance.status = s.status := rfl
@[simp] theorem State.advance_cfg (s : State) : s.advance.cfg = s.cfg := rfl
@[simp] theorem State.advance_draws (s : State) : s.advance.draws = s.draws := rfl

@[simp] theorem State.raise_cells (e : ErrorKind) (s : State) : (s.raise e).cells = s.cells := rfl
@[simp] theorem State.raise_flags (e : ErrorKind) (s : State) : (s.raise e).flags = s.flags := rfl
@[simp] theorem State.raise_pc (e : ErrorKind) (s : State) : (s.raise e).pc = s.pc := rfl
@[simp] theorem State.raise_exit (e : ErrorKind) (s : State) : (s.raise e).exit = s.exit := rfl
@[simp] theorem State.raise_mem (e : ErrorKind) (s : State) : (s.raise e).mem = s.mem := rfl
@[simp] theorem State.raise_program (e : ErrorKind) (s : State) : (s.raise e).program = s.program := rfl
@[simp] theorem State.raise_stream (e : ErrorKind) (s : State) : (s.raise e).stream = s.stream := rfl
@[simp] theorem State.raise_labels (e : ErrorKind) (s : State) : (s.raise e).labels = s.labels := rfl
@[simp] theorem State.raise_status (e : ErrorKind) (s : State) : (s.raise e).status = .halted (.error e) := rfl
@[simp] theorem State.raise_cfg (e : ErrorKind) (s : State) : (s.raise e).cfg = s.cfg := rfl
@[simp] theorem State.raise_draws (e : ErrorKind) (s : State) : (s.raise e).draws = s.draws := rfl

@[simp] theorem State.drew_cells (k : Nat) (s : State) : (s.drew k).cells = s.cells := rfl
@[simp] theorem State.drew_flags (k : Nat) (s : State) : (s.drew k).flags = s.flags := rfl
@[simp] theorem State.drew_pc (k : Nat) (s : State) : (s.drew k).pc = s.pc := rfl
@[simp] theorem State.drew_exit (k : Nat) (s : State) : (s.drew k).exit = s.exit := rfl
@[simp] theorem State.drew_mem (k : Nat) (s : State) : (s.drew k).mem = s.mem := rfl
@[simp] theorem State.drew_program (k : Nat) (s : State) : (s.drew k).program = s.program := rfl
@[simp] theorem State.drew_stream (k : Nat) (s : State) : (s.drew k).stream = s.stream := rfl
@[simp] theorem State.drew_labels (k : Nat) (s : State) : (s.drew k).labels = s.labels := rfl
@[simp] theorem State.drew_status (k : Nat) (s : State) : (s.drew k).status = s.status := rfl
@[simp] theorem State.drew_cfg (k : Nat) (s : State) : (s.drew k).cfg = s.cfg := rfl
@[simp] theorem State.drew_draws (k : Nat) (s : State) : (s.drew k).draws = s.draws + k := rfl

@[simp] theorem State.retire_cells (s : State) : s.retire.cells = s.cells := by
  unfold State.retire; split <;> rfl
@[simp] theorem State.retire_flags (s : State) : s.retire.flags = s.flags := by
  unfold State.retire; split <;> rfl
@[simp] theorem State.retire_pc (s : State) : s.retire.pc = s.pc := by
  unfold State.retire; split <;> rfl
@[simp] theorem State.retire_exit (s : State) : s.retire.exit = s.exit := by
  unfold State.retire; split <;> rfl
@[simp] theorem State.retire_mem (s : State) : s.retire.mem = s.mem := by
  unfold State.retire; split <;> rfl
@[simp] theorem State.retire_program (s : State) : s.retire.program = s.program := by
  unfold State.retire; split <;> rfl
@[simp] theorem State.retire_stream (s : State) : s.retire.stream = s.stream := by
  unfold State.retire; split <;> rfl
@[simp] theorem State.retire_labels (s : State) : s.retire.labels = s.labels := by
  unfold State.retire; split <;> rfl
@[simp] theorem State.retire_cfg (s : State) : s.retire.cfg = s.cfg := by
  unfold State.retire; split <;> rfl
@[simp] theorem State.retire_draws (s : State) : s.retire.draws = s.draws := by
  unfold State.retire; split <;> rfl

@[simp] theorem State.chose_cells (p : AliasPolicy) (s : State) : (s.chose p).cells = s.cells := by cases p <;> rfl
@[simp] theorem State.chose_flags (p : AliasPolicy) (s : State) : (s.chose p).flags = s.flags := by cases p <;> rfl
@[simp] theorem State.chose_pc (p : AliasPolicy) (s : State) : (s.chose p).pc = s.pc := by cases p <;> rfl
@[simp] theorem State.chose_exit (p : AliasPolicy) (s : State) : (s.chose p).exit = s.exit := by cases p <;> rfl
@[simp] theorem State.chose_mem (p : AliasPolicy) (s : State) : (s.chose p).mem = s.mem := by cases p <;> rfl
@[simp] theorem State.chose_program (p : AliasPolicy) (s : State) : (s.chose p).program = s.program := by cases p <;> rfl
@[simp] theorem State.chose_stream (p : AliasPolicy) (s : State) : (s.chose p).stream = s.stream := by cases p <;> rfl
@[simp] theorem State.chose_labels (p : AliasPolicy) (s : State) : (s.chose p).labels = s.labels := by cases p <;> rfl
@[simp] theorem State.chose_status (p : AliasPolicy) (s : State) : (s.chose p).status = s.status := by cases p <;> rfl
@[simp] theorem State.chose_cfg (p : AliasPolicy) (s : State) : (s.chose p).cfg = s.cfg := by cases p <;> rfl

/-- Completing leaves the status alone while the exit flag is clear, and halts the run by it otherwise (R162). -/
@[simp] theorem State.retire_status (s : State) :
    s.retire.status = if s.exit then .halted .exit else s.status := by
  unfold State.retire; split <;> rfl

@[simp] theorem State.retire_of_exit_false (s : State) (h : s.exit = false) : s.retire = s := by
  simp [State.retire, h]

/-! ## Cells -/

@[simp] theorem Cells.get_set (cs : Cells) (v : Word) (c d : Cell) :
    (cs.set v c).get d = if d = c then v else cs.get d := by
  cases c <;> cases d <;> rfl

@[simp] theorem State.cell_withFlags (f : Flags) (s : State) (c : Cell) : (s.withFlags f).cell c = s.cell c := rfl

@[simp] theorem State.cell_withPc (n : Nat) (s : State) (c : Cell) : (s.withPc n).cell c = s.cell c := rfl

@[simp] theorem State.cell_withExit (b : Bool) (s : State) (c : Cell) : (s.withExit b).cell c = s.cell c := rfl

@[simp] theorem State.cell_withMem (m : Memory) (s : State) (c : Cell) : (s.withMem m).cell c = s.cell c := rfl

@[simp] theorem State.cell_withStatus (st : Status) (s : State) (c : Cell) : (s.withStatus st).cell c = s.cell c := rfl

@[simp] theorem State.cell_withDraws (n : Nat) (s : State) (c : Cell) : (s.withDraws n).cell c = s.cell c := rfl

@[simp] theorem State.cell_advance (s : State) (c : Cell) : s.advance.cell c = s.cell c := rfl

@[simp] theorem State.cell_raise (e : ErrorKind) (s : State) (c : Cell) : (s.raise e).cell c = s.cell c := rfl

@[simp] theorem State.cell_drew (k : Nat) (s : State) (c : Cell) : (s.drew k).cell c = s.cell c := rfl

@[simp] theorem State.cell_retire (s : State) (c : Cell) : s.retire.cell c = s.cell c := by
  simp [State.cell]

@[simp] theorem State.cell_chose (p : AliasPolicy) (s : State) (c : Cell) : (s.chose p).cell c = s.cell c := by
  simp [State.cell]

@[simp] theorem State.cell_setCell (c d : Cell) (v : Word) (s : State) :
    (s.setCell c v).cell d = if d = c then v else s.cell d := by
  simp [State.cell]

theorem State.cell_writeReg (s : State) (r : Reg) (v : BitVec r.width.bits) (d : Cell) :
    (s.writeReg r v).cell d = if d = regCell r then insertView (s.cell (regCell r)) r v else s.cell d := by
  simp [State.writeReg]

/-- Two states with the same cells read every operand address alike. -/
theorem State.ea_congr {s t : State} (h : ∀ c, t.cell c = s.cell c) (m : MemRef) : t.ea m = s.ea m := by
  obtain ⟨b, o, sc, i⟩ := m
  cases b <;> cases i <;> simp [State.ea, State.baseValue, State.indexValue, h]

end Sys2Proof.Machine
end

