-- ==== Sys2Proof/Laws/Ops.lean ====
section
/-! SUPPORT. What the shared operations can do, each said once: the error monad, memory access, the stack slot, taking an error,
completing, and the instruction shapes. -/

namespace Sys2Proof.Machine

/-! ## The error monad -/

theorem bind_eq_ok {ε α β : Type} {x : Except ε α} {f : α → Except ε β} {b : β} :
    (x >>= f) = .ok b ↔ ∃ a, x = .ok a ∧ f a = .ok b := by
  cases x with
  | error e => simp [bind, Except.bind]
  | ok a => simp [bind, Except.bind]

theorem map_eq_ok {ε α β : Type} {x : Except ε α} {f : α → β} {b : β} :
    x.map f = .ok b ↔ ∃ a, x = .ok a ∧ f a = b := by
  cases x with
  | error e => simp [Except.map]
  | ok a => simp [Except.map]

@[simp] theorem ok_bind {ε α β : Type} (a : α) (f : α → Except ε β) : (Except.ok a >>= f) = f a := rfl

@[simp] theorem error_bind {ε α β : Type} (e : ε) (f : α → Except ε β) : (Except.error e >>= f) = .error e := rfl

@[simp] theorem ok_map {ε α β : Type} (a : α) (f : α → β) : (Except.ok a : Except ε α).map f = .ok (f a) := rfl

@[simp] theorem error_map {ε α β : Type} (e : ε) (f : α → β) : (Except.error e : Except ε α).map f = .error e := rfl

@[simp] theorem pure_eq_ok {ε α : Type} (a : α) : (pure a : Except ε α) = .ok a := rfl

/-! ## Memory access (R82 to R84) -/

theorem State.memRead_of_inBounds {s : State} {a : Int} {w : Width} (h : s.inBounds a w.bytes) :
    s.memRead a w = .ok (BitVec.ofNat w.bits (readBytes s.mem a.toNat w.bytes)) := by
  rw [State.memRead, if_pos h]

theorem State.memRead_of_not_inBounds {s : State} {a : Int} {w : Width} (h : ¬ s.inBounds a w.bytes) :
    s.memRead a w = .error (.outOfBoundsMemoryAccess a w.bytes) := by
  rw [State.memRead, if_neg h]

theorem State.memWrite_of_inBounds {s : State} {a : Int} {w : Width} (h : s.inBounds a w.bytes) (v : BitVec w.bits) :
    s.memWrite a w v = .ok (s.withMem (writeBytes s.mem a.toNat w.bytes v.toNat)) := by
  rw [State.memWrite, if_pos h]

theorem State.memWrite_of_not_inBounds {s : State} {a : Int} {w : Width} (h : ¬ s.inBounds a w.bytes) (v : BitVec w.bits) :
    s.memWrite a w v = .error (.outOfBoundsMemoryAccess a w.bytes) := by
  rw [State.memWrite, if_neg h]

/-- A load that succeeds was in bounds. -/
theorem State.memRead_ok {s : State} {a : Int} {w : Width} {v : BitVec w.bits} (h : s.memRead a w = .ok v) :
    s.inBounds a w.bytes ∧ v = BitVec.ofNat w.bits (readBytes s.mem a.toNat w.bytes) := by
  by_cases hb : s.inBounds a w.bytes
  · rw [State.memRead_of_inBounds hb] at h
    exact ⟨hb, (Except.ok.inj h).symm⟩
  · rw [State.memRead_of_not_inBounds hb] at h
    cases h

/-- A store that succeeds was in bounds, and changed the memory only. -/
theorem State.memWrite_ok {s t : State} {a : Int} {w : Width} {v : BitVec w.bits} (h : s.memWrite a w v = .ok t) :
    s.inBounds a w.bytes ∧ t = s.withMem (writeBytes s.mem a.toNat w.bytes v.toNat) := by
  by_cases hb : s.inBounds a w.bytes
  · rw [State.memWrite_of_inBounds hb] at h
    exact ⟨hb, (Except.ok.inj h).symm⟩
  · rw [State.memWrite_of_not_inBounds hb] at h
    cases h

/-! ## What an instruction body leaves alone -/

/-- Everything but registers, flags, pc and draws is as before, and memory keeps its form and its bounds. -/
structure Keeps (s t : State) : Prop where
  program : t.program = s.program
  stream : t.stream = s.stream
  labels : t.labels = s.labels
  cfg : t.cfg = s.cfg
  exit : t.exit = s.exit
  status : t.status = s.status
  memCanonical : Memory.wf s.mem = true → Memory.wf t.mem = true
  memInside : Memory.within s.cfg.memSize s.mem = true → Memory.within s.cfg.memSize t.mem = true

theorem Keeps.refl (s : State) : Keeps s s := ⟨rfl, rfl, rfl, rfl, rfl, rfl, id, id⟩

theorem Keeps.trans {s t u : State} (h : Keeps s t) (k : Keeps t u) : Keeps s u where
  program := k.program.trans h.program
  stream := k.stream.trans h.stream
  labels := k.labels.trans h.labels
  cfg := k.cfg.trans h.cfg
  exit := k.exit.trans h.exit
  status := k.status.trans h.status
  memCanonical := k.memCanonical ∘ h.memCanonical
  memInside w := by have := k.memInside; rw [h.cfg] at this; exact this (h.memInside w)

/-- An update that leaves the memory and the control fields alone. -/
theorem Keeps.of_fields {s t : State} (hp : t.program = s.program) (hs : t.stream = s.stream) (hl : t.labels = s.labels)
    (hc : t.cfg = s.cfg) (he : t.exit = s.exit) (hst : t.status = s.status) (hm : t.mem = s.mem) : Keeps s t :=
  ⟨hp, hs, hl, hc, he, hst, by rw [hm]; exact id, by rw [hm]; exact id⟩

theorem Keeps.withCells {s t : State} (cs : Cells) (h : Keeps s t) : Keeps s (t.withCells cs) :=
  h.trans (.of_fields rfl rfl rfl rfl rfl rfl rfl)

theorem Keeps.withFlags {s t : State} (f : Flags) (h : Keeps s t) : Keeps s (t.withFlags f) :=
  h.trans (.of_fields rfl rfl rfl rfl rfl rfl rfl)

theorem Keeps.withPc {s t : State} (n : Nat) (h : Keeps s t) : Keeps s (t.withPc n) :=
  h.trans (.of_fields rfl rfl rfl rfl rfl rfl rfl)

theorem Keeps.advance {s t : State} (h : Keeps s t) : Keeps s t.advance :=
  h.withPc _

theorem Keeps.setCell {s t : State} (c : Cell) (v : Word) (h : Keeps s t) : Keeps s (t.setCell c v) :=
  h.trans (.of_fields rfl rfl rfl rfl rfl rfl rfl)

theorem Keeps.writeReg {s t : State} (r : Reg) (v : BitVec r.width.bits) (h : Keeps s t) : Keeps s (t.writeReg r v) :=
  h.setCell _ _

theorem Keeps.drew {s t : State} (k : Nat) (h : Keeps s t) : Keeps s (t.drew k) :=
  h.trans (.of_fields rfl rfl rfl rfl rfl rfl rfl)

theorem Keeps.chose {s t : State} (p : AliasPolicy) (h : Keeps s t) : Keeps s (t.chose p) := by
  cases p
  · exact h.drew 1
  · exact h
  · exact h

theorem Keeps.memWrite {s t u : State} {a : Int} {w : Width} {v : BitVec w.bits} (h : Keeps s t)
    (hw : t.memWrite a w v = .ok u) : Keeps s u := by
  obtain ⟨⟨h0, h1⟩, rfl⟩ := State.memWrite_ok hw
  refine h.trans ⟨rfl, rfl, rfl, rfl, rfl, rfl, fun hm => Memory.wf_writeBytes hm _ _ _, fun hm => ?_⟩
  exact Memory.within_writeBytes hm (by omega) _

theorem Keeps.writeView {s t u : State} {w : Width} {v : BitVec w.bits} {x : ValueView} (h : Keeps s t)
    (hw : t.writeView w v x = .ok u) : Keeps s u := by
  cases x with
  | register r => cases hw; exact h.writeReg r _
  | memory a => exact h.memWrite hw
  | immediate k => cases hw; exact h

theorem Keeps.writeDst {s0 s t u : State} {w : Width} {dst : Dst} {v : BitVec w.bits} (h : Keeps s t)
    (hw : s0.writeDst w dst v t = .ok u) : Keeps s u :=
  h.writeView hw

theorem Keeps.push32 {s t u : State} {v : Word} (h : Keeps s t) (hp : t.push32 v = .ok u) : Keeps s u := by
  obtain ⟨x, hx, rfl⟩ := map_eq_ok.mp hp
  exact (h.memWrite hx).setCell _ _

theorem Keeps.pop32 {s t : State} {p : Word × State} (h : Keeps s t) (hp : t.pop32 = .ok p) : Keeps s p.2 := by
  obtain ⟨v, -, rfl⟩ := map_eq_ok.mp hp
  exact h.setCell _ _

/-! ## Taking an error and completing (R162, R170) -/

/-- An instruction ends in one of two ways: it takes an error, or its new state is retired. -/
theorem complete_cases (s : State) (r : Except ErrorKind State) :
    (∃ e, r = .error e ∧ complete s r = .next (s.raise e)) ∨ (∃ t, r = .ok t ∧ complete s r = .next t.retire) := by
  cases r with
  | error e => exact .inl ⟨e, rfl, rfl⟩
  | ok t => exact .inr ⟨t, rfl, rfl⟩

@[simp] theorem complete_error (s : State) (e : ErrorKind) : complete s (.error e) = .next (s.raise e) := rfl

@[simp] theorem complete_ok (s t : State) : complete s (.ok t) = .next t.retire := rfl

/-- An instruction that runs from `s`: its body is completed, and the body keeps what `Keeps` says. -/
def RunsFrom (s : State) (r : Result) : Prop :=
  ∃ body, r = complete s body ∧ ∀ t, body = .ok t → Keeps s t

theorem RunsFrom.of_complete {s : State} {body : Except ErrorKind State} (h : ∀ t, body = .ok t → Keeps s t) :
    RunsFrom s (complete s body) :=
  ⟨body, rfl, h⟩

/-! ## The instruction shapes -/

theorem binaryOp_runs {w : Width} {src : Src} {dst : Dst} {f : BitVec w.bits → BitVec w.bits → BitVec w.bits × State}
    {s : State} (h : ∀ d x, Keeps s (f d x).2) : RunsFrom s (binaryOp w src dst f s) := by
  refine .of_complete fun t ht => ?_
  obtain ⟨d, -, x, -, u, hu, rfl⟩ : ∃ d, _ ∧ ∃ x, _ ∧ ∃ u, s.writeDst w dst (f d x).1 (f d x).2 = .ok u ∧ u.advance = t := by
    simpa [bind_eq_ok] using ht
  exact ((h d x).writeDst hu).advance

theorem compareOp_runs {w : Width} {src : Src} {dst : Dst} {f : BitVec w.bits → BitVec w.bits → State} {s : State}
    (h : ∀ d x, Keeps s (f d x)) : RunsFrom s (compareOp w src dst f s) := by
  refine .of_complete fun t ht => ?_
  obtain ⟨d, -, x, -, rfl⟩ : ∃ d, _ ∧ ∃ x, _ ∧ (f d x).advance = t := by simpa [bind_eq_ok] using ht
  exact (h d x).advance

theorem unaryOp_runs {w : Width} {dst : Dst} {f : BitVec w.bits → BitVec w.bits × State} {s : State}
    (h : ∀ d, Keeps s (f d).2) : RunsFrom s (unaryOp w dst f s) := by
  refine .of_complete fun t ht => ?_
  obtain ⟨d, -, u, hu, rfl⟩ : ∃ d, _ ∧ ∃ u, s.writeDst w dst (f d).1 (f d).2 = .ok u ∧ u.advance = t := by
    simpa [bind_eq_ok] using ht
  exact ((h d).writeDst hu).advance

theorem sourceOp_runs {src : Src} {f : Word → Except ErrorKind State} {s : State}
    (h : ∀ x t, f x = .ok t → Keeps s t) : RunsFrom s (sourceOp src f s) := by
  refine .of_complete fun t ht => ?_
  obtain ⟨x, -, ht⟩ := bind_eq_ok.mp ht
  obtain ⟨u, hu, hz⟩ := bind_eq_ok.mp ht
  cases hz
  exact (h x u hu).advance

theorem plainOp_runs {r : Except ErrorKind State} {s : State} (h : ∀ t, r = .ok t → Keeps s t) :
    RunsFrom s (plainOp r s) := by
  refine .of_complete fun t ht => ?_
  obtain ⟨u, hu, rfl⟩ := map_eq_ok.mp ht
  exact (h u hu).advance

/-! ## The errors of the instruction shapes -/

/-- The destination is read first. -/
theorem binaryOp_dst_error {w : Width} {src : Src} {dst : Dst} {f : BitVec w.bits → BitVec w.bits → BitVec w.bits × State}
    {s : State} {e : ErrorKind} (h : s.dstVal w dst = .error e) : binaryOp w src dst f s = .next (s.raise e) := by
  rw [binaryOp, h]; rfl

theorem binaryOp_src_error {w : Width} {src : Src} {dst : Dst} {f : BitVec w.bits → BitVec w.bits → BitVec w.bits × State}
    {s : State} {d : BitVec w.bits} {e : ErrorKind} (hd : s.dstVal w dst = .ok d) (h : s.srcVal w src = .error e) :
    binaryOp w src dst f s = .next (s.raise e) := by
  rw [binaryOp, hd, h]; rfl

theorem compareOp_dst_error {w : Width} {src : Src} {dst : Dst} {f : BitVec w.bits → BitVec w.bits → State} {s : State}
    {e : ErrorKind} (h : s.dstVal w dst = .error e) : compareOp w src dst f s = .next (s.raise e) := by
  rw [compareOp, h]; rfl

theorem compareOp_src_error {w : Width} {src : Src} {dst : Dst} {f : BitVec w.bits → BitVec w.bits → State} {s : State}
    {d : BitVec w.bits} {e : ErrorKind} (hd : s.dstVal w dst = .ok d) (h : s.srcVal w src = .error e) :
    compareOp w src dst f s = .next (s.raise e) := by
  rw [compareOp, hd, h]; rfl

theorem unaryOp_error {w : Width} {dst : Dst} {f : BitVec w.bits → BitVec w.bits × State} {s : State} {e : ErrorKind}
    (h : s.dstVal w dst = .error e) : unaryOp w dst f s = .next (s.raise e) := by
  rw [unaryOp, h]; rfl

theorem sourceOp_error {src : Src} {f : Word → Except ErrorKind State} {s : State} {x : Word} {e : ErrorKind}
    (hx : s.srcVal .w32 src = .ok x) (h : f x = .error e) : sourceOp src f s = .next (s.raise e) := by
  rw [sourceOp, hx]
  change complete s (f x >>= _) = _
  rw [h]; rfl

end Sys2Proof.Machine
end

