-- ==== Sys2Proof/Laws/Operands.lean ====
section
/-! SUPPORT. Register views and operands: a view's bits, read after write, when an operand can be read and written, and that an
instruction shape completes and what its destination then holds. -/

namespace Sys2Proof.Machine

/-! ## Register views (R35, R36) -/

theorem low16_getLsbD (old : BitVec 32) (v : BitVec 16) (i : Nat) :
    (old.extractLsb' 16 16 ++ v).getLsbD i = if i < 16 then v.getLsbD i else old.getLsbD i := by
  rw [BitVec.getLsbD_append]
  by_cases h : i < 16
  · simp [h]
  · by_cases h' : i < 32
    · simp [h, show i - 16 < 16 by omega, show 16 + (i - 16) = i by omega]
    · simp [h, show ¬ i - 16 < 16 by omega, BitVec.getLsbD_of_ge old i (by omega)]

theorem low8_getLsbD (old : BitVec 32) (v : BitVec 8) (i : Nat) :
    (old.extractLsb' 8 24 ++ v).getLsbD i = if i < 8 then v.getLsbD i else old.getLsbD i := by
  rw [BitVec.getLsbD_append]
  by_cases h : i < 8
  · simp [h]
  · by_cases h' : i < 32
    · simp [h, show i - 8 < 24 by omega, show 8 + (i - 8) = i by omega]
    · simp [h, show ¬ i - 8 < 24 by omega, BitVec.getLsbD_of_ge old i (by omega)]

theorem high8_getLsbD (old : BitVec 32) (v : BitVec 8) (i : Nat) :
    (old.extractLsb' 16 16 ++ v ++ old.extractLsb' 0 8).getLsbD i =
      if 8 ≤ i ∧ i < 16 then v.getLsbD (i - 8) else old.getLsbD i := by
  rw [BitVec.getLsbD_append, BitVec.getLsbD_append]
  by_cases h : i < 8
  · simp [h, show ¬ 8 ≤ i by omega]
  · by_cases h' : i < 16
    · simp [h, h', show i - 8 < 8 by omega, show 8 ≤ i by omega]
    · by_cases h'' : i < 32
      · simp [h, h', show ¬ i - 8 < 8 by omega, show i - 8 - 8 < 16 by omega, show 16 + (i - 8 - 8) = i by omega]
      · simp [h, h', show ¬ i - 8 < 8 by omega, show ¬ i - 8 - 8 < 16 by omega, BitVec.getLsbD_of_ge old i (by omega)]

/-- Bit `i` of a view is bit `low + i` of its cell. -/
theorem readReg_getLsbD (s : State) (r : Reg) {i : Nat} (h : i < r.width.bits) :
    (s.readReg r).getLsbD i = (s.cell (regCell r)).getLsbD (viewLow r + i) := by
  have key : ∀ (v : BitVec 32) (lo n : Nat), i < n → (v.extractLsb' lo n).getLsbD i = v.getLsbD (lo + i) := by
    intro v lo n hn
    simp [hn]
  cases r with
  | r32 _ => rw [viewLow, Nat.zero_add]; rfl
  | r16 _ => exact key _ 0 16 h
  | lo8 _ => exact key _ 0 8 h
  | hi8 _ => exact key _ 8 8 h

/-- The bits of a cell after one of its views is replaced: the view's are the value's, the others are kept. -/
theorem insertView_getLsbD (old : Word) (r : Reg) (v : BitVec r.width.bits) (i : Nat) :
    (insertView old r v).getLsbD i =
      if viewLow r ≤ i ∧ i < viewLow r + r.width.bits then v.getLsbD (i - viewLow r) else old.getLsbD i := by
  cases r with
  | r32 _ =>
    by_cases h : i < 32
    · simp [insertView, viewLow, Reg.width, Width.bits, h]
    · simp only [viewLow, Reg.width, Width.bits, h, Nat.zero_add, and_false, if_false]
      rw [BitVec.getLsbD_of_ge old i (by omega)]
      exact BitVec.getLsbD_of_ge (w := 32) v i (by omega)
  | r16 _ =>
    refine (low16_getLsbD old v i).trans ?_
    simp [viewLow, Reg.width, Width.bits]
  | lo8 _ =>
    refine (low8_getLsbD old v i).trans ?_
    simp [viewLow, Reg.width, Width.bits]
  | hi8 _ => exact high8_getLsbD old v i

/-- Writing a view changes no bit outside it. -/
theorem writeReg_outside (s : State) (r : Reg) (v : BitVec r.width.bits) {c : Cell} {i : Nat} (h : ¬ inView r c i) :
    ((s.writeReg r v).cell c).getLsbD i = (s.cell c).getLsbD i := by
  rw [State.cell_writeReg]
  split
  · subst_vars
    rw [insertView_getLsbD, if_neg fun hv => h ⟨rfl, hv⟩]
  · rfl

/-- A view reads what was written to it. -/
theorem readReg_writeReg (s : State) (r : Reg) (v : BitVec r.width.bits) : (s.writeReg r v).readReg r = v := by
  apply BitVec.eq_of_getLsbD_eq
  intro i hi
  rw [readReg_getLsbD _ _ hi, State.cell_writeReg, if_pos rfl, insertView_getLsbD, if_pos ⟨by omega, by omega⟩]
  simp

/-! ## When an operand can be read and written (R84, R166, R167) -/

/-- A destination can be read exactly when it can be reached. -/
theorem dstVal_isOk_iff (s : State) (w : Width) (dst : Dst) : (∃ d, s.dstVal w dst = .ok d) ↔ DstReachable w dst s := by
  cases dst with
  | reg r => exact ⟨fun _ => trivial, fun _ => ⟨_, rfl⟩⟩
  | mem m =>
    constructor
    · rintro ⟨d, hd⟩
      exact (State.memRead_ok hd).1
    · intro h
      exact ⟨_, State.memRead_of_inBounds h⟩

/-- A source that is no Memory operand can always be read. -/
theorem srcVal_isOk_of_not_mem (s : State) (w : Width) {src : Src} (h : ∀ m, src ≠ .mem m) : ∃ x, s.srcVal w src = .ok x := by
  cases src with
  | imm k => exact ⟨_, rfl⟩
  | reg r => exact ⟨_, rfl⟩
  | mem m => exact absurd rfl (h m)

/-- The word, half word or byte just stored is read back. -/
theorem memRead_writeBytes {s : State} (hm : Memory.wf s.mem = true) {a : Int} {w : Width} (h : s.inBounds a w.bytes)
    (v : BitVec w.bits) : (s.withMem (writeBytes s.mem a.toNat w.bytes v.toNat)).memRead a w = .ok v := by
  rw [State.memRead_of_inBounds (s := s.withMem (writeBytes s.mem a.toNat w.bytes v.toNat)) h]
  have hv : v.toNat < 256 ^ w.bytes := by
    have := v.isLt
    cases w <;> simpa [Width.bytes, Width.bits] using this
  rw [State.withMem_mem, readBytes_writeBytes hm, Nat.mod_eq_of_lt hv, BitVec.ofNat_toNat, BitVec.setWidth_eq]

/-- Writing a reachable destination of the operation width succeeds; it then holds the value, and only registers and memory have
changed. -/
theorem writeDst_completes {s t : State} {w : Width} {dst : Dst} (v : BitVec w.bits) (hc : t.cfg = s.cfg)
    (hm : Memory.wf t.mem = true) (hf : dst.fits w = true) (hr : DstReachable w dst s) :
    ∃ u, s.writeDst w dst v t = .ok u ∧ DstHolds w dst s u v ∧ u.flags = t.flags ∧ u.pc = t.pc ∧ Keeps t u := by
  cases dst with
  | reg r =>
    refine ⟨_, rfl, ?_, rfl, rfl, (Keeps.refl t).writeReg r _⟩
    have hw : r.width = w := by simpa [Dst.fits] using hf
    subst hw
    show Except.ok _ = _
    rw [readReg_writeReg]
    simp
  | mem m =>
    have hb : t.inBounds (s.ea m) w.bytes := by
      simpa [DstReachable, State.inBounds, hc] using hr
    refine ⟨_, State.memWrite_of_inBounds hb v, ?_, rfl, rfl, (Keeps.refl t).memWrite (State.memWrite_of_inBounds hb v)⟩
    exact memRead_writeBytes hm hb v

/-- What a destination holds does not depend on the pc, the flags or the draws. -/
theorem DstHolds.congr {w : Width} {dst : Dst} {s t t' : State} {v : BitVec w.bits} (h : DstHolds w dst s t v)
    (hc : t'.cells = t.cells) (hm : t'.mem = t.mem) (hcfg : t'.cfg = t.cfg) : DstHolds w dst s t' v := by
  cases dst with
  | reg r =>
    have hcell : ∀ c, t'.cell c = t.cell c := fun c => by simp [State.cell, hc]
    have : t'.readReg r = t.readReg r := by
      cases r <;> simp only [State.readReg, hcell]
    simpa [DstHolds, State.dstView, State.val, this] using h
  | mem m => simpa [DstHolds, State.dstView, State.val, State.memRead, State.inBounds, hm, hcfg] using h

/-! ## Completion of the instruction shapes -/

theorem retire_of_running {s : State} (h : s.exit = false) : s.retire = s := by
  simp [State.retire, h]

/-- A kept state has advanced to the next line. -/
theorem Keeps.continues {s t : State} (h : Keeps s t) (hp : t.pc = s.pc) : Continues s t.advance :=
  ⟨by simp [hp], h.exit, h.status, h.program, h.stream, h.labels, h.cfg⟩

theorem binaryOp_completes {s : State} {w : Width} {src : Src} {dst : Dst} {d x : BitVec w.bits}
    {f : BitVec w.bits → BitVec w.bits → BitVec w.bits × State} (hr : s.Ready) (hf : dst.fits w = true)
    (hd : s.dstVal w dst = .ok d) (hx : s.srcVal w src = .ok x) (hk : Keeps s (f d x).2) (hp : (f d x).2.pc = s.pc) :
    ∃ t, binaryOp w src dst f s = .next t ∧ Continues s t ∧ DstHolds w dst s t (f d x).1 ∧ t.flags = (f d x).2.flags := by
  obtain ⟨u, hu, hold, hfl, hpc, hku⟩ := writeDst_completes (f d x).1 hk.cfg (hk.memCanonical hr.1) hf
    ((dstVal_isOk_iff s w dst).mp ⟨d, hd⟩)
  have hsu := hk.trans hku
  refine ⟨u.advance, ?_, hsu.continues (hpc.trans hp), hold.congr rfl rfl rfl, hfl⟩
  simp only [binaryOp, hd, hx, ok_bind, hu, pure_eq_ok, complete_ok]
  rw [retire_of_running (s := u.advance) (hsu.exit.trans hr.2)]

theorem compareOp_completes {s : State} {w : Width} {src : Src} {dst : Dst} {d x : BitVec w.bits}
    {f : BitVec w.bits → BitVec w.bits → State} (he : s.exit = false) (hd : s.dstVal w dst = .ok d)
    (hx : s.srcVal w src = .ok x) (hk : Keeps s (f d x)) (hp : (f d x).pc = s.pc) :
    compareOp w src dst f s = .next (f d x).advance ∧ Continues s (f d x).advance := by
  refine ⟨?_, hk.continues hp⟩
  simp only [compareOp, hd, hx, ok_bind, pure_eq_ok, complete_ok]
  rw [retire_of_running (s := (f d x).advance) (hk.exit.trans he)]

theorem unaryOp_completes {s : State} {w : Width} {dst : Dst} {d : BitVec w.bits} {f : BitVec w.bits → BitVec w.bits × State}
    (hr : s.Ready) (hf : dst.fits w = true) (hd : s.dstVal w dst = .ok d) (hk : Keeps s (f d).2) (hp : (f d).2.pc = s.pc) :
    ∃ t, unaryOp w dst f s = .next t ∧ Continues s t ∧ DstHolds w dst s t (f d).1 ∧ t.flags = (f d).2.flags := by
  obtain ⟨u, hu, hold, hfl, hpc, hku⟩ := writeDst_completes (f d).1 hk.cfg (hk.memCanonical hr.1) hf
    ((dstVal_isOk_iff s w dst).mp ⟨d, hd⟩)
  have hsu := hk.trans hku
  refine ⟨u.advance, ?_, hsu.continues (hpc.trans hp), hold.congr rfl rfl rfl, hfl⟩
  simp only [unaryOp, hd, ok_bind, hu, pure_eq_ok, complete_ok]
  rw [retire_of_running (s := u.advance) (hsu.exit.trans hr.2)]

theorem sourceOp_completes {s t : State} {src : Src} {x : Word} {f : Word → Except ErrorKind State} (he : s.exit = false)
    (hx : s.srcVal .w32 src = .ok x) (ht : f x = .ok t) (hk : Keeps s t) (hp : t.pc = s.pc) :
    sourceOp src f s = .next t.advance ∧ Continues s t.advance := by
  refine ⟨?_, hk.continues hp⟩
  simp only [sourceOp, hx, pure_eq_ok]
  change complete s (f x >>= _) = _
  rw [ht]
  show Host.Outcome.next _ = _
  rw [retire_of_running (s := t.advance) (hk.exit.trans he)]

theorem plainOp_completes {s t : State} (he : s.exit = false) (hk : Keeps s t) (hp : t.pc = s.pc) :
    plainOp (.ok t) s = .next t.advance ∧ Continues s t.advance := by
  refine ⟨?_, hk.continues hp⟩
  simp only [plainOp, ok_map, complete_ok]
  rw [retire_of_running (s := t.advance) (hk.exit.trans he)]

end Sys2Proof.Machine
end

