-- ==== Sys2Proof/Laws/Exec.lean ====
section
/-! SUPPORT. What each meaning can do, said once: every instruction but the exit instruction runs from its state, keeping the program,
the parameters, the exit flag, the status and the form of memory, and then retires. -/

namespace Sys2Proof.Machine

/-! ## The shared bodies -/

theorem Keeps.setEaxEdx {s t : State} (a d : Word) (h : Keeps s t) : Keeps s (setEaxEdx a d t) := (h.setCell _ _).setCell _ _

theorem Keeps.choseAlias (src : Src) (dst : Dst) (s : State) : Keeps s (choseAlias src dst s) := by
  unfold Machine.choseAlias
  split
  · exact (Keeps.refl s).chose _
  · exact .refl s

theorem Keeps.logicFlags {n : Nat} (s : State) (r : BitVec n) : Keeps s (logicFlags s r) := (Keeps.refl s).withFlags _

theorem Keeps.rotateState (s : State) (n : Nat) (cf formula : Bool) : Keeps s (rotateState s n cf formula) :=
  ((Keeps.refl s).withFlags _).drew _

theorem Keeps.shiftState (s : State) (n : Nat) (cf formula : Bool) : Keeps s (shiftState s n cf formula) :=
  ((Keeps.refl s).withFlags _).drew _

theorem Keeps.advancePtr {s t : State} (c : Cell) (w : Width) (h : Keeps s t) : Keeps s (advancePtr c w t) := h.setCell _ _

theorem Keeps.setAcc {s t : State} (w : Width) (v : BitVec w.bits) (h : Keeps s t) : Keeps s (setAcc w v t) := h.writeReg _ _

theorem rotateOp_runs {w : Width} {count : Count} {dst : Dst} {step : BitVec w.bits × Bool → BitVec w.bits × Bool}
    {formula : BitVec w.bits → Bool → Bool} {s : State} : RunsFrom s (rotateOp w count dst step formula s) :=
  unaryOp_runs fun _ => Keeps.rotateState _ _ _ _

theorem shiftOp_runs {w : Width} {count : Count} {dst : Dst}
    {step : BitVec w.bits → BitVec w.bits × Bool → BitVec w.bits × Bool} {formula : BitVec w.bits → BitVec w.bits → Bool → Bool}
    {s : State} : RunsFrom s (shiftOp w count dst step formula s) :=
  unaryOp_runs fun _ => Keeps.shiftState _ _ _ _

theorem withTarget_runs {target : Text} {s : State} {found : Nat → State} (h : ∀ k, Keeps s (found k)) :
    RunsFrom s (withTarget target s found) := by
  unfold withTarget
  split
  · exact .of_complete fun t ht => by cases ht; exact h _
  · split
    · exact .of_complete fun t ht => by cases ht
    · exact .of_complete fun t ht => by cases ht; exact (Keeps.refl s).advance

theorem jumpIf_runs {c : Cond} {target : Text} {s : State} : RunsFrom s (jumpIf c target s) :=
  withTarget_runs fun k => by
    split
    · exact (Keeps.refl s).withPc k
    · exact (Keeps.refl s).advance

theorem cmovIf_runs {c : Cond} {w : Width} {src : Src} {dst : Dst} {s : State} : RunsFrom s (cmovIf c w src dst s) := by
  refine .of_complete fun t ht => ?_
  obtain ⟨x, -, ht⟩ := bind_eq_ok.mp ht
  obtain ⟨_, -, ht⟩ := bind_eq_ok.mp ht
  obtain ⟨u, hu, rfl⟩ := map_eq_ok.mp ht
  split at hu
  · exact ((Keeps.refl s).writeDst hu).advance
  · cases hu
    exact (Keeps.refl s).advance

theorem setIf_runs {c : Cond} {dst : Dst} {s : State} : RunsFrom s (setIf c dst s) := by
  refine .of_complete fun t ht => ?_
  obtain ⟨u, hu, hz⟩ := bind_eq_ok.mp ht
  cases hz
  exact ((Keeps.refl s).writeDst hu).advance

theorem cmpsOp_runs {w : Width} {s : State} : RunsFrom s (cmpsOp w s) := by
  refine .of_complete fun t ht => ?_
  obtain ⟨a, -, ht⟩ := bind_eq_ok.mp ht
  obtain ⟨b, -, hz⟩ := bind_eq_ok.mp ht
  cases hz
  exact ((((Keeps.refl s).withFlags _).advancePtr _ _).advancePtr _ _).advance

theorem movsOp_runs {w : Width} {s : State} : RunsFrom s (movsOp w s) := by
  refine .of_complete fun t ht => ?_
  obtain ⟨v, -, ht⟩ := bind_eq_ok.mp ht
  obtain ⟨u, hu, hz⟩ := bind_eq_ok.mp ht
  cases hz
  exact ((((Keeps.refl s).memWrite hu).advancePtr _ _).advancePtr _ _).advance

theorem scasOp_runs {w : Width} {s : State} : RunsFrom s (scasOp w s) := by
  refine .of_complete fun t ht => ?_
  obtain ⟨b, -, hz⟩ := bind_eq_ok.mp ht
  cases hz
  exact (((Keeps.refl s).withFlags _).advancePtr _ _).advance

theorem stosOp_runs {w : Width} {s : State} : RunsFrom s (stosOp w s) := by
  refine .of_complete fun t ht => ?_
  obtain ⟨u, hu, hz⟩ := bind_eq_ok.mp ht
  cases hz
  exact (((Keeps.refl s).memWrite hu).advancePtr _ _).advance

theorem lodsOp_runs {w : Width} {s : State} : RunsFrom s (lodsOp w s) := by
  refine .of_complete fun t ht => ?_
  obtain ⟨v, -, hz⟩ := bind_eq_ok.mp ht
  cases hz
  exact (((Keeps.refl s).setAcc _ _).advancePtr _ _).advance

theorem pushFlags_runs {s : State} : RunsFrom s (pushFlags s) :=
  plainOp_runs fun _ ht => (Keeps.refl s).push32 ht

theorem popFlags_runs {s : State} : RunsFrom s (popFlags s) :=
  plainOp_runs fun _ ht => by
    obtain ⟨p, hp, rfl⟩ := map_eq_ok.mp ht
    exact ((Keeps.refl s).pop32 hp).withFlags _

/-! ## The meanings whose body is their own -/

theorem execMul_runs {src : Src} {s : State} : RunsFrom s (execMul src s) :=
  sourceOp_runs fun _ _ ht => by cases ht; exact (((Keeps.refl s).setEaxEdx _ _).withFlags _).drew _

theorem execImul_runs {src : Src} {dst : Option Cell} {s : State} : RunsFrom s (execImul src dst s) :=
  sourceOp_runs fun x t ht => by
    cases dst with
    | none => cases ht; exact (((Keeps.refl s).setEaxEdx _ _).withFlags _).drew _
    | some c => cases ht; exact (((Keeps.refl s).setCell _ _).withFlags _).drew _

theorem Keeps.divide {s : State} (q m : Word) : Keeps s (divide q m s) :=
  (((Keeps.refl s).setEaxEdx _ _).withFlags _).drew _

theorem execDiv_runs {src : Src} {s : State} : RunsFrom s (execDiv src s) :=
  sourceOp_runs fun x t ht => by
    dsimp only at ht
    split at ht
    · cases ht
    · split at ht
      · cases ht
      · cases ht; exact .divide _ _

theorem execIdiv_runs {src : Src} {s : State} : RunsFrom s (execIdiv src s) :=
  sourceOp_runs fun x t ht => by
    dsimp only at ht
    split at ht
    · cases ht
    · split at ht
      · cases ht
      · cases ht; exact .divide _ _

theorem execMov_runs {w : Width} {src : Src} {dst : Dst} {s : State} : RunsFrom s (execMov w src dst s) := by
  refine .of_complete fun t ht => ?_
  obtain ⟨x, -, ht⟩ := bind_eq_ok.mp ht
  obtain ⟨u, hu, hz⟩ := bind_eq_ok.mp ht
  cases hz
  exact (((Keeps.refl s).withFlags _).writeDst hu).advance

theorem execPush_runs {src : Src} {s : State} : RunsFrom s (execPush src s) :=
  sourceOp_runs fun x t ht => by
    unfold pushValue at ht
    split at ht
    · obtain ⟨u, hu, rfl⟩ := map_eq_ok.mp ht
      exact ((Keeps.refl s).push32 hu).chose _
    · exact (Keeps.refl s).push32 ht

theorem execPop_runs {dst : Dst} {s : State} : RunsFrom s (execPop dst s) :=
  plainOp_runs fun t ht => by
    obtain ⟨p, hp, ht⟩ := bind_eq_ok.mp ht
    unfold popInto at ht
    split at ht
    · cases ht
      exact ((Keeps.refl s).setCell _ _).chose _
    · exact ((Keeps.refl s).pop32 hp).writeDst ht

theorem execCall_runs {target : Text} {s : State} : RunsFrom s (execCall target s) := by
  unfold execCall
  split
  · refine .of_complete fun t ht => ?_
    obtain ⟨u, hu, rfl⟩ := map_eq_ok.mp ht
    exact ((Keeps.refl s).push32 hu).withPc _
  · split
    · exact .of_complete fun t ht => by cases ht
    · refine .of_complete fun t ht => ?_
      obtain ⟨u, hu, rfl⟩ := map_eq_ok.mp ht
      exact ((Keeps.refl s).push32 hu).advance

theorem execRet_runs {size : Option (BitVec 16)} {s : State} : RunsFrom s (execRet size s) := by
  refine .of_complete fun t ht => ?_
  obtain ⟨p, hp, rfl⟩ := map_eq_ok.mp ht
  exact (((Keeps.refl s).pop32 hp).setCell _ _).withPc _

theorem Keeps.enterPush {s : State} {v : Word} {p q : State × Word} (h : Keeps s p.1) (hq : enterPush v p = .ok q) :
    Keeps s q.1 := by
  obtain ⟨u, hu, rfl⟩ := map_eq_ok.mp hq
  exact h.memWrite hu

theorem Keeps.enterCopies {s : State} {n : Nat} {e : Word} {p q : State × Word} (h : Keeps s p.1)
    (hq : enterCopies n e p = .ok q) : Keeps s q.1 := by
  induction n generalizing e p with
  | zero => cases hq; exact h
  | succ n ih =>
    obtain ⟨v, -, hq⟩ := bind_eq_ok.mp hq
    obtain ⟨u, hu, hq⟩ := bind_eq_ok.mp hq
    exact ih (h.enterPush hu) hq

theorem Keeps.enterDisplay {s : State} {l : Nat} {e frame : Word} {p q : State × Word} (h : Keeps s p.1)
    (hq : enterDisplay l e frame p = .ok q) : Keeps s q.1 := by
  cases l with
  | zero => cases hq; exact h
  | succ n =>
    obtain ⟨u, hu, hq⟩ := bind_eq_ok.mp hq
    exact (h.enterCopies hu).enterPush hq

theorem execEnter_runs {size : BitVec 16} {level : Option Byte} {s : State} : RunsFrom s (execEnter size level s) :=
  plainOp_runs fun t ht => by
    obtain ⟨p, hp, ht⟩ := bind_eq_ok.mp ht
    obtain ⟨q, hq, hz⟩ := bind_eq_ok.mp ht
    cases hz
    exact ((((Keeps.refl s).enterPush hp).enterDisplay hq).setCell _ _).setCell _ _

theorem execLeave_runs {s : State} : RunsFrom s (execLeave s) :=
  plainOp_runs fun t ht => by
    obtain ⟨v, -, rfl⟩ := map_eq_ok.mp ht
    exact ((Keeps.refl s).setCell _ _).setCell _ _

theorem plainOp_ok_runs {s t : State} (h : Keeps s t) : RunsFrom s (plainOp (.ok t) s) :=
  plainOp_runs fun u hu => by cases hu; exact h

/-! ## Every instruction -/

/-- Every instruction but the exit instruction runs from its state. -/
theorem exec_runs (i : Instr) (s : State) (h : i ≠ .hlt) : RunsFrom s (exec i s) := by
  cases i
  case hlt => exact absurd rfl h
  case add | sub => exact binaryOp_runs fun _ _ => (Keeps.refl s).withFlags _
  case adc | sbb => exact binaryOp_runs fun _ _ => (Keeps.choseAlias _ _ s).withFlags _
  case cmp => exact compareOp_runs fun _ _ => (Keeps.refl s).withFlags _
  case inc | dec | neg => exact unaryOp_runs fun _ => (Keeps.refl s).withFlags _
  case and | or | xor => exact binaryOp_runs fun _ _ => Keeps.logicFlags s _
  case test => exact compareOp_runs fun _ _ => Keeps.logicFlags s _
  case not => exact unaryOp_runs fun _ => Keeps.refl s
  case mul => exact execMul_runs
  case imul => exact execImul_runs
  case div => exact execDiv_runs
  case idiv => exact execIdiv_runs
  case rol | ror | rcl | rcr => simp only [exec, execRol, execRor, execRcl, execRcr]; exact rotateOp_runs
  case shl | sal | shr | sar => simp only [exec, execShl, execSal, execShr, execSar]; exact shiftOp_runs
  case mov => exact execMov_runs
  case push => exact execPush_runs
  case pop => exact execPop_runs
  case pushf | pushfl | pushfd => exact pushFlags_runs
  case popf | popfl | popfd => exact popFlags_runs
  case lahf => exact plainOp_ok_runs ((Keeps.refl s).writeReg _ _)
  case sahf => exact plainOp_ok_runs ((Keeps.refl s).withFlags _)
  case jmp => exact withTarget_runs fun k => (Keeps.refl s).withPc k
  case call => exact execCall_runs
  case ret => exact execRet_runs
  case enter => exact execEnter_runs
  case leave => exact execLeave_runs
  case nop => exact plainOp_ok_runs (Keeps.refl s)
  case cmpsb | cmpsw | cmpsd | cmpsl => exact cmpsOp_runs
  case movsb | movsw | movsd | movsl => exact movsOp_runs
  case scasb | scasw | scasd | scasl => exact scasOp_runs
  case stosb | stosw | stosd | stosl => exact stosOp_runs
  case lodsb | lodsw | lodsd | lodsl => exact lodsOp_runs
  case jo | jno | jb | jc | jnae | jae | jnb | jnc | je | jz | jne | jnz
    | jbe | jna | ja | jnbe | js | jns | jp | jpe | jnp | jpo | jl | jnge
    | jge | jnl | jle | jng | jg | jnle => exact jumpIf_runs
  case cmovo | cmovno | cmovb | cmovc | cmovnae | cmovae | cmovnb | cmovnc | cmove | cmovz | cmovne | cmovnz
    | cmovbe | cmovna | cmova | cmovnbe | cmovs | cmovns | cmovp | cmovpe | cmovnp | cmovpo | cmovl | cmovnge
    | cmovge | cmovnl | cmovle | cmovng | cmovg | cmovnle => exact cmovIf_runs
  case seto | setno | setb | setc | setnae | setae | setnb | setnc | sete | setz | setne | setnz
    | setbe | setna | seta | setnbe | sets | setns | setp | setpe | setnp | setpo | setl | setnge
    | setge | setnl | setle | setng | setg | setnle => exact setIf_runs

/-- The exit instruction (R374, R162). -/
theorem exec_hlt (s : State) : exec .hlt s = .next { s with exit := true, pc := s.pc + 1, status := .halted .exit } := rfl

end Sys2Proof.Machine
end

