-- ==== Sys2Proof/Laws/Flags.lean ====
section
/-! SUPPORT. Values, counts and flag words as naturals: the one-bit steps are the loop bodies of 44_shift_rotate.md, effective counts
are those of R280, and the bits of a sum of flag bits. -/

namespace Sys2Proof.Machine

theorem Width.bits_pos (w : Width) : 0 < w.bits := by cases w <;> decide

/-! ## Bits as naturals -/

theorem two_pow_pred {n : Nat} (h : 0 < n) : 2 ^ n = 2 * 2 ^ (n - 1) := by
  rw [← Nat.pow_succ']
  congr 1
  omega

theorem msb_toNat {n : Nat} (r : BitVec n) (h : 0 < n) : r.msb.toNat = r.toNat / 2 ^ (n - 1) := by
  have h2 := two_pow_pred h
  have hr := r.isLt
  rw [BitVec.msb_eq_decide]
  by_cases hh : 2 ^ (n - 1) ≤ r.toNat
  · simp only [hh, decide_true, Bool.toNat_true]
    symm
    rw [Nat.div_eq_iff (by positivity)]
    omega
  · simp only [hh, decide_false, Bool.toNat_false]
    exact (Nat.div_eq_of_lt (by omega)).symm

theorem lsb_toNat {n : Nat} (r : BitVec n) : (r.getLsbD 0).toNat = r.toNat % 2 := by
  rw [BitVec.getLsbD, Nat.testBit_zero]
  rcases Nat.mod_two_eq_zero_or_one r.toNat with h | h <;> simp [h]

theorem ofBool_setWidth_toNat {n : Nat} (b : Bool) (h : 0 < n) : ((BitVec.ofBool b).setWidth n).toNat = b.toNat := by
  have h2 := two_pow_pred h
  have : 0 < 2 ^ (n - 1) := by positivity
  cases b
  · simp
  · show (BitVec.setWidth n 1#1).toNat = 1
    rw [BitVec.toNat_setWidth]
    exact Nat.mod_eq_of_lt (by show 1 < 2 ^ n; omega)

/-- A value read as a two's-complement integer. -/
theorem toInt_cases {w : Width} (d : BitVec w.bits) :
    (d.toInt = d.toNat ∧ d.toNat < 2 ^ (w.bits - 1)) ∨ (d.toInt = d.toNat - 2 ^ w.bits ∧ 2 ^ (w.bits - 1) ≤ d.toNat) := by
  have hd := d.isLt
  rw [BitVec.toInt_eq_toNat_cond]
  split
  · refine .inl ⟨rfl, ?_⟩
    cases w <;> simp only [Width.bits] at * <;> omega
  · refine .inr ⟨by simp, ?_⟩
    cases w <;> simp only [Width.bits] at * <;> omega

theorem ofNat_add_toNat {n : Nat} (d x : BitVec n) : BitVec.ofNat n (d.toNat + x.toNat) = d + x := by
  apply BitVec.eq_of_toNat_eq
  simp

theorem ofNat_differenceNat {n : Nat} (d x : BitVec n) : BitVec.ofNat n (differenceNat d x) = d - x := by
  apply BitVec.eq_of_toNat_eq
  have := x.isLt
  simp only [differenceNat, BitVec.toNat_ofNat, Nat.mod_mod, BitVec.toNat_sub]
  congr 1
  omega

/-! ## The one-bit steps (R281 to R287) -/

theorem stepLeft_toNat {n : Nat} (r : BitVec n) (b : Bool) (h : 0 < n) :
    (stepLeft r b).toNat = r.toNat * 2 % 2 ^ n + b.toNat := by
  have hdisj : (r <<< 1) &&& ((BitVec.ofBool b).setWidth n) = 0#n := by
    apply BitVec.eq_of_getLsbD_eq
    intro i hi
    by_cases hi0 : i = 0
    · subst hi0
      simp
    · simp
      intros
      cases b
      · simp
      · simp; omega
  unfold stepLeft
  rw [← BitVec.add_eq_or_of_and_eq_zero _ _ hdisj, BitVec.toNat_add, ofBool_setWidth_toNat b h, BitVec.toNat_shiftLeft]
  have h2 := two_pow_pred h
  have hb : b.toNat ≤ 1 := by cases b <;> simp
  simp only [Nat.shiftLeft_eq, Nat.pow_one]
  rw [Nat.mod_eq_of_lt]
  rw [h2, Nat.mul_comm r.toNat 2, Nat.mul_mod_mul_left]
  have := Nat.mod_lt r.toNat (show 0 < 2 ^ (n - 1) by positivity)
  omega

theorem stepRight_toNat {n : Nat} (r : BitVec n) (b : Bool) (h : 0 < n) :
    (stepRight r b).toNat = r.toNat / 2 + b.toNat * 2 ^ (n - 1) := by
  have hdisj : (r >>> 1) &&& ((BitVec.ofBool b).setWidth n <<< (n - 1)) = 0#n := by
    apply BitVec.eq_of_getLsbD_eq
    intro i hi
    by_cases hi0 : 1 + i < n
    · simp
      intros
      omega
    · simp [BitVec.getLsbD_of_ge r (1 + i) (by omega)]
  unfold stepRight
  have h2 := two_pow_pred h
  have hr := r.isLt
  rw [← BitVec.add_eq_or_of_and_eq_zero _ _ hdisj, BitVec.toNat_add, BitVec.toNat_shiftLeft, ofBool_setWidth_toNat b h,
    BitVec.toNat_ushiftRight]
  simp only [Nat.shiftLeft_eq, Nat.shiftRight_eq_div_pow, Nat.pow_one]
  cases b
  · simp
    rw [Nat.mod_eq_of_lt]
    omega
  · simp
    rw [Nat.mod_eq_of_lt]
    omega

/-- A value and a carry as the naturals of the loops. -/
def pairNat {n : Nat} (p : BitVec n × Bool) : Nat × Nat := (p.1.toNat, p.2.toNat)

/-- A loop of steps is the loop of their bodies. -/
theorem pairNat_iterate {n : Nat} {f : BitVec n × Bool → BitVec n × Bool} {g : Nat × Nat → Nat × Nat}
    (h : ∀ p, pairNat (f p) = g (pairNat p)) (k : Nat) (p : BitVec n × Bool) :
    pairNat (iterate f k p) = repeatTimes g k (pairNat p) := by
  induction k generalizing p with
  | zero => rfl
  | succ k ih => rw [iterate, ih, h]; rfl

theorem pairNat_rolStep {n : Nat} (h : 0 < n) (p : BitVec n × Bool) : pairNat (rolStep p) = rolBody n (pairNat p) := by
  simp [pairNat, rolStep, rolBody, stepLeft_toNat _ _ h, msb_toNat _ h]

theorem pairNat_rclStep {n : Nat} (h : 0 < n) (p : BitVec n × Bool) : pairNat (rclStep p) = rclBody n (pairNat p) := by
  simp [pairNat, rclStep, rclBody, stepLeft_toNat _ _ h, msb_toNat _ h]

theorem pairNat_shlStep {n : Nat} (h : 0 < n) (p : BitVec n × Bool) : pairNat (shlStep p) = shlBody n (pairNat p) := by
  simp [pairNat, shlStep, shlBody, stepLeft_toNat _ _ h, msb_toNat _ h]

theorem pairNat_rorStep {n : Nat} (h : 0 < n) (p : BitVec n × Bool) : pairNat (rorStep p) = rorBody n (pairNat p) := by
  simp only [pairNat, rorStep, rorBody, stepRight_toNat _ _ h, lsb_toNat]

theorem pairNat_rcrStep {n : Nat} (h : 0 < n) (p : BitVec n × Bool) : pairNat (rcrStep p) = rcrBody n (pairNat p) := by
  simp only [pairNat, rcrStep, rcrBody, stepRight_toNat _ _ h, lsb_toNat]

theorem pairNat_shrStep {n : Nat} (h : 0 < n) (p : BitVec n × Bool) : pairNat (shrStep p) = shrBody n (pairNat p) := by
  simp [pairNat, shrStep, shrBody, stepRight_toNat _ _ h, lsb_toNat, -Nat.mod_two_not_eq_zero]

theorem pairNat_sarStep {n : Nat} (h : 0 < n) (b : Bool) (p : BitVec n × Bool) :
    pairNat (sarStep b p) = sarBody b.toNat n (pairNat p) := by
  simp only [pairNat, sarStep, sarBody, stepRight_toNat _ _ h, lsb_toNat]

/-! ## Counts (R280) -/

theorem countValue_toNat (s : State) (c : Count) : (countValue s c).toNat = countNat s c := by
  cases c with
  | one => rfl
  | imm k => rfl
  | cl =>
    show ((s.cell .ecx).extractLsb' 0 8).toNat = _
    simp [countNat]

theorem rotateCount_eq (s : State) (c : Count) : rotateCount s c = rotateTimes s c := by
  have h : ∀ b : Byte, (b &&& 0x1F).toNat = b.toNat % 32 := by
    intro b
    rw [BitVec.toNat_and]
    exact Nat.and_two_pow_sub_one_eq_mod b.toNat 5
  rw [rotateCount, h, countValue_toNat]
  rfl

theorem shiftCount_eq (s : State) (c : Count) : shiftCount s c = shiftTimes s c := by
  rw [shiftCount, BitVec.toNat_and, countValue_toNat]
  rfl

/-! ## Sums of flag bits (R42) -/

theorem flagBit_le (b : Bool) (p : Nat) : flagBit b p ≤ 2 ^ p := by cases b <;> simp [flagBit]

theorem testBit_flagBit (b : Bool) (p k : Nat) : (flagBit b p).testBit k = (b && decide (p = k)) := by
  cases b
  · simp [flagBit]
  · simp [flagBit, Nat.testBit_two_pow]

/-- Adding a flag bit above all the others sets that bit and leaves them. -/
theorem testBit_add_flagBit {n p : Nat} {b : Bool} (k : Nat) (h : n < 2 ^ p) :
    (n + flagBit b p).testBit k = (n.testBit k || (b && decide (p = k))) := by
  cases b
  · simp [flagBit]
  · have e : n + flagBit true p = 2 ^ p + n := by
      simp [flagBit]
      omega
    rw [e, ← Nat.mul_one (2 ^ p), Nat.testBit_two_pow_mul_add 1 h]
    by_cases hk : k < p
    · simp [hk]
      intro
      omega
    · have hpk : 2 ^ p ≤ 2 ^ k := Nat.pow_le_pow_right (by omega) (by omega)
      simp only [hk, if_false]
      rw [Nat.testBit_lt_two_pow (x := n) (i := k) (by omega)]
      by_cases hkp : p = k
      · subst hkp
        simp
      · have h1 : 2 ^ 1 ≤ 2 ^ (k - p) := Nat.pow_le_pow_right (by omega) (by omega)
        have h3 : (1 : Nat).testBit (k - p) = false := Nat.testBit_lt_two_pow (by omega)
        simp [hkp, h3]

theorem add_flagBit_lt {n p q : Nat} {b : Bool} (h : n < 2 ^ p) (hq : p < q) : n + flagBit b p < 2 ^ q := by
  have h1 := flagBit_le b p
  have h2 : 2 ^ (p + 1) ≤ 2 ^ q := Nat.pow_le_pow_right (by omega) (by omega)
  omega

end Sys2Proof.Machine
end

