-- ==== Sys2Proof/Laws/Stack.lean ====
section
/-! SUPPORT. The stack slot: when `Push32` and `Pop32` succeed and what they leave, when they fail, and the pointer step of the string
instructions. -/

namespace Sys2Proof.Machine

/-- A push into a slot in bounds stores the word there, lowers `esp` by 4, and keeps everything else. -/
theorem push32_of_inBounds {s : State} (hm : Memory.wf s.mem = true) (v : Word) (h : s.inBounds (pushSlot s) 4) :
    ∃ u, s.push32 v = .ok u ∧ Keeps s u ∧ u.pc = s.pc ∧ u.flags = s.flags ∧ u.cell .esp = s.cell .esp - 4 ∧
      WordAt (pushSlot s) v u := by
  have hw := State.memWrite_of_inBounds (w := .w32) h v
  refine ⟨(s.withMem (writeBytes s.mem (pushSlot s).toNat 4 v.toNat)).setCell .esp (s.cell .esp - 4), ?_, ?_, rfl, rfl, ?_, ?_⟩
  · show (s.memWrite (pushSlot s) .w32 v).map _ = _
    rw [hw]
    rfl
  · exact ((Keeps.refl s).memWrite hw).setCell _ _
  · rw [State.cell_setCell, if_pos rfl]
  · exact memRead_writeBytes (w := .w32) hm h v

theorem push32_of_not_inBounds {s : State} (v : Word) (h : ¬ s.inBounds (pushSlot s) 4) :
    s.push32 v = .error (.outOfBoundsMemoryAccess (pushSlot s) 4) := by
  show (s.memWrite (pushSlot s) .w32 v).map _ = _
  rw [State.memWrite_of_not_inBounds (w := .w32) h]
  rfl

/-- A pop gives the word at `esp` and raises `esp` by 4. -/
theorem pop32_of_wordAt {s : State} {v : Word} (h : WordAt (addrOf (s.cell .esp)) v s) :
    s.pop32 = .ok (v, s.setCell .esp (s.cell .esp + 4)) := by
  unfold State.pop32
  rw [show s.memRead _ _ = _ from h]
  rfl

theorem pop32_of_not_inBounds {s : State} (h : ¬ s.inBounds (addrOf (s.cell .esp)) 4) :
    s.pop32 = .error (.outOfBoundsMemoryAccess (addrOf (s.cell .esp)) 4) := by
  unfold State.pop32
  rw [show s.memRead (addrOf (s.cell .esp)) .w32 = _ from State.memRead_of_not_inBounds (w := .w32) h]
  rfl

/-- A word in bounds is some word. -/
theorem wordAt_of_inBounds {s : State} {a : Int} (h : s.inBounds a 4) : ∃ v, WordAt a v s :=
  ⟨_, State.memRead_of_inBounds (w := .w32) h⟩

/-- What stands at an address does not depend on registers, flags, pc or draws. -/
theorem memRead_congr {s t : State} {a : Int} {w : Width} (hm : t.mem = s.mem) (hc : t.cfg = s.cfg) :
    t.memRead a w = s.memRead a w := by
  simp [State.memRead, State.inBounds, hm, hc]

/-- A pointer stepped as the instruction begins has moved by `delta` (R340). -/
theorem pointerMoved_of_advancePtr {c : Cell} {w : Width} {s t : State} (h : t.cell c = (advancePtr c w s).cell c) :
    PointerMoved c w s t := by
  unfold PointerMoved stringDelta
  rw [h]
  unfold advancePtr
  rw [State.cell_setCell, if_pos rfl]
  have := (s.cell c).isLt
  unfold pointerStep
  cases s.flags.df <;> cases s.cfg.stringStep <;> cases w <;>
    simp [Width.bytes, Width.bits, BitVec.toNat_add, BitVec.toNat_sub] <;> omega

theorem cell_advancePtr_of_ne {c d : Cell} {w : Width} {s : State} (h : c ≠ d) : (advancePtr c w s).cell d = s.cell d := by
  unfold advancePtr
  rw [State.cell_setCell, if_neg (Ne.symm h)]

theorem cell_advancePtr_congr {c : Cell} {w : Width} {s t : State} (h1 : t.cell c = s.cell c) (h2 : t.cfg = s.cfg)
    (h3 : t.flags.df = s.flags.df) : (advancePtr c w t).cell c = (advancePtr c w s).cell c := by
  unfold advancePtr pointerStep
  rw [State.cell_setCell, State.cell_setCell, if_pos rfl, if_pos rfl, h1, h2, h3]

/-- The accumulator of a width is the low bits of `eax` (R37). -/
theorem accValue_eq (w : Width) (s : State) : accValue w s = (s.cell .eax).setWidth w.bits := by
  cases w <;> simp [accValue, accReg, State.readReg] <;> apply BitVec.eq_of_getLsbD_eq <;> intro i hi <;>
    simp [Width.bits] at *

end Sys2Proof.Machine
end

