-- ==== Sys2Proof/Laws/Step.lean ====
section
/-! SUPPORT. What one step can do, said once with its guards, so that a claim about every step is a case analysis of this. -/

namespace Sys2Proof.Machine

/-- A run from `s` ends in an error, or in a kept state that retires. -/
theorem RunsFrom.cases {s : State} {r : Result} (h : RunsFrom s r) :
    (∃ e, r = .next (s.raise e)) ∨ ∃ t, r = .next t.retire ∧ Keeps s t := by
  obtain ⟨body, rfl, hk⟩ := h
  rcases complete_cases s body with ⟨e, -, h⟩ | ⟨t, ht, h⟩
  · exact .inl ⟨e, h⟩
  · exact .inr ⟨t, h, hk t ht⟩

/-- Every instruction answers a next state. -/
theorem exec_cases (i : Instr) (s : State) :
    (∃ e, exec i s = .next (s.raise e)) ∨ (i = .hlt ∧ exec i s = .next (s.withExit true).advance.retire) ∨
      ∃ t, exec i s = .next t.retire ∧ Keeps s t := by
  by_cases hi : i = .hlt
  · exact .inr (.inl ⟨hi, by rw [hi]; rfl⟩)
  · rcases (exec_runs i s hi).cases with h | h
    · exact .inl h
    · exact .inr (.inr h)

/-- The lines a step can meet at the pc of a running core. -/
theorem stepLine_cases {s t : State} {l : Line} (h : stepLine s l = .next t) :
    t = s.advance ∨ (∃ e, t = s.raise e) ∨ (∃ r, l = .instr r ∧ decode s.cfg r = .ok .hlt ∧ exec .hlt s = .next t) ∨
      ∃ u, t = u.retire ∧ Keeps s u := by
  unfold stepLine at h
  split at h
  · cases h; exact .inr (.inl ⟨_, rfl⟩)
  · cases h; exact .inl rfl
  · cases h; exact .inl rfl
  · split at h
    · cases h; exact .inr (.inl ⟨_, rfl⟩)
    · rename_i r i hd
      by_cases hi : i = .hlt
      · exact .inr (.inr (.inl ⟨_, rfl, hi ▸ hd, hi ▸ h⟩))
      · rcases (exec_runs i s hi).cases with ⟨e, he⟩ | ⟨u, hu, hk⟩
        · rw [he] at h; cases h; exact .inr (.inl ⟨_, rfl⟩)
        · rw [hu] at h; cases h; exact .inr (.inr (.inr ⟨u, rfl, hk⟩))

/-- What a step can do: the resolving pass; the end of the stream; or one line, which advances the pc, takes an error, is the exit
instruction, or commits a kept state. -/
theorem step_cases {s t : State} (h : step s = .next t) :
    (s.status = .resolving ∧ t = s.resolve) ∨ (s.status = .running ∧ s.stream.length ≤ s.pc ∧ t = s.endOfStream) ∨
      (s.status = .running ∧ s.pc < s.stream.length ∧
        (t = s.advance ∨ (∃ e, t = s.raise e) ∨
          (∃ r, s.stream[s.pc]? = some (.instr r) ∧ decode s.cfg r = .ok .hlt ∧ exec .hlt s = .next t) ∨
          ∃ u, t = u.retire ∧ Keeps s u)) := by
  unfold step at h
  split at h
  · cases h
  · cases h; exact .inl ⟨‹_›, rfl⟩
  · have hs : s.status = .running := by assumption
    cases hf : s.fetch with
    | none =>
      rw [hf] at h
      cases h
      exact .inr (.inl ⟨hs, by simpa [State.fetch] using hf, rfl⟩)
    | some l =>
      rw [hf] at h
      have hl : s.pc < s.stream.length := (List.getElem?_eq_some_iff.mp hf).1
      refine .inr (.inr ⟨hs, hl, ?_⟩)
      rcases stepLine_cases h with h | h | ⟨r, rfl, hd, he⟩ | h
      · exact .inl h
      · exact .inr (.inl h)
      · exact .inr (.inr (.inl ⟨r, hf, hd, he⟩))
      · exact .inr (.inr (.inr h))

end Sys2Proof.Machine
end

