-- ==== Sys2Proof/Tests/Slice0.lean ====
section
/-! SUPPORT. Tests: ill-formed terms the check refuses, records written out from the spec, single steps on the spec's own examples
(the rule examples of 41 to 47 and the vectors of 95_test_vectors.md, named in the comments), and for every obligation with hypotheses
a state and operands that meet them. -/

set_option Elab.async false

namespace Sys2Proof.Tests

open Sys2Proof Sys2Proof.Machine

/-- The spec's test configuration D56: the defaults, with both alias parameters `snapshot`. -/
def cfg56 : Config := { Config.default with adcSbbAlias := .snapshot, pushPopEsp := .snapshot }

/-- A running core in the test configuration: `esp = 0x80`, everything else clear, an empty stream. -/
def core56 : State := { State.reset with status := .running, cfg := cfg56 }

/-- `core56` with a value in `eax`. -/
def withEax (v : Word) : State := core56.setCell .eax v

/-- `core56` with a word at an address. -/
def withWord (a : Nat) (v : Word) (s : State) : State := s.withMem (writeBytes s.mem a 4 v.toNat)

/-- The same with CF set. -/
def State.carry (s : State) : State := s.withFlags { s.flags with cf := true }

/-- The answer is a next state that satisfies `p`. -/
def nextIs (r : Result) (p : State → Bool) : Bool :=
  match r with
  | .next t => p t
  | .fault _ | .refused _ => false

/-- CF, PF, AF, ZF, SF, OF, in the column order of the spec's vectors. -/
def six (s : State) : List Bool := [s.flags.cf, s.flags.pf, s.flags.af, s.flags.zf, s.flags.sf, s.flags.ovf]

/-! ## Ill-formed terms -/

/-- R117: 256 does not fit 8 bits, -129 neither. -/
theorem test_wf_refuses_immediate :
    (Instr.add .w8 (.imm 256) (.reg (.lo8 .eax))).wellFormed .default = false ∧
      (Instr.add .w8 (.imm (-129)) (.reg (.lo8 .eax))).wellFormed .default = false ∧
      (Instr.add .w8 (.imm (-128)) (.reg (.lo8 .eax))).wellFormed .default = true := by decide

/-- R121: `add %al, %eax`, `addb $1, %eax` and `mul %cx`. -/
theorem test_wf_refuses_width :
    (Instr.add .w32 (.reg (.lo8 .eax)) (.reg (.r32 .eax))).wellFormed .default = false ∧
      (Instr.add .w8 (.imm 1) (.reg (.r32 .eax))).wellFormed .default = false ∧
      (Instr.mul (.reg (.r16 .ecx))).wellFormed .default = false := by decide

/-- R122: two Memory operands. -/
theorem test_wf_refuses_two_memory :
    (Instr.mov .w32 (.mem ⟨.absent, 0, .x1, none⟩) (.mem ⟨.absent, 4, .x1, none⟩)).wellFormed .default = false := by decide

/-- R120: `cmov` has no suffix, so an immediate to memory is 32 bits wide. -/
theorem test_wf_refuses_cmov_width :
    (Instr.cmove .w8 (.imm 1) (.mem ⟨.absent, 0, .x1, none⟩)).wellFormed .default = false ∧
      (Instr.cmove .w32 (.imm 1) (.mem ⟨.absent, 0, .x1, none⟩)).wellFormed .default = true := by decide

/-- R33: the low byte of `esi` has no spelling by default, and one when the configuration binds one. -/
theorem test_wf_refuses_unspelled :
    (Instr.inc .w8 (.reg (.lo8 .esi))).wellFormed .default = false ∧
      (Instr.inc .w8 (.reg (.lo8 .esi))).wellFormed
        { Config.default with extraLowByteNames := [(['s', 'i', 'l'], .esi)] } = true := by decide

/-- R329 and R362: `set` takes a byte, `pop` a word of 32 bits. -/
theorem test_wf_refuses_fixed_width :
    (Instr.setc (.reg (.r32 .eax))).wellFormed .default = false ∧ (Instr.pop (.reg (.r16 .eax))).wellFormed .default = false ∧
      (Instr.rol .w16 .cl (.reg (.r32 .eax))).wellFormed .default = false := by decide

/-! ## Records that fail to decode (R165, R404) -/

/-- The four examples of R404. -/
theorem test_decode_precedence :
    decode .default ⟨['a', 'd', 'd'], [.literal 1, .register ['f', 'o', 'o']]⟩ = .error (.unknownRegister ['f', 'o', 'o']) ∧
      decode .default ⟨['m', 'o', 'v'], [.register ['f', 'o', 'o'], .literal 1]⟩ = .error (.unknownRegister ['f', 'o', 'o']) ∧
      decode .default ⟨['a', 'd', 'd', 'b'], [.literal 1, .register ['e', 'a', 'x']]⟩ = .error .invalidOperand ∧
      decode .default ⟨['r', 'e', 'p'], []⟩ = .error (.unknownMnemonic ['r', 'e', 'p']) := by decide

/-- R87: a 16-bit base, a scale of 3; R119: `set` takes no suffix; R117: a `ret` size of 65536. -/
theorem test_decode_refuses :
    decode .default ⟨['i', 'n', 'c'], [.memory (.register ['b', 'x']) 0 1 none]⟩ = .error .invalidOperand ∧
      decode .default ⟨['i', 'n', 'c'], [.memory (.register ['e', 'b', 'x']) 0 3 none]⟩ = .error .invalidOperand ∧
      decode .default ⟨['s', 'e', 't', 'c', 'b'], [.register ['a', 'l']]⟩ = .error (.unknownMnemonic ['s', 'e', 't', 'c', 'b']) ∧
      decode .default ⟨['r', 'e', 't'], [.literal 65536]⟩ = .error .invalidOperand := by decide

/-! ## Records of every constructor (R111, R116, R118, R125, R126, R129) -/

/-- Each record decodes to the instruction beside it. -/
def decodesTo (l : List (Record × Instr)) : Bool := l.all fun p => decide (decode .default p.1 = .ok p.2)

theorem test_decode_arithmetic_logic_mov : decodesTo
    [(⟨['a', 'd', 'd', 'b'], [.literal 255, .register ['a', 'h']]⟩, .add .w8 (.imm 255) (.reg (.hi8 .a))),
     (⟨['a', 'd', 'c'], [.register ['b', 'x'], .register ['s', 'i']]⟩, .adc .w16 (.reg (.r16 .ebx)) (.reg (.r16 .esi))),
     (⟨['s', 'u', 'b', 'l'], [.memory (.register ['e', 's', 'p']) 8 4 (some ['e', 'c', 'x']), .register ['e', 'd', 'x']]⟩, .sub .w32 (.mem ⟨.register .esp, 8, .x4, some .ecx⟩) (.reg (.r32 .edx))),
     (⟨['s', 'b', 'b', 'w'], [.literal (-1), .memoryNoBase 16 1 none]⟩, .sbb .w16 (.imm (-1)) (.mem ⟨.absent, 16, .x1, none⟩)),
     (⟨['c', 'm', 'p'], [.register ['c', 'l'], .memory (.literal 32) 0 2 (some ['e', 'd', 'i'])]⟩, .cmp .w8 (.reg (.lo8 .ecx)) (.mem ⟨.literal 32, 0, .x2, some .edi⟩)),
     (⟨['a', 'n', 'd', 'b'], [.literal 255, .register ['a', 'h']]⟩, .and .w8 (.imm 255) (.reg (.hi8 .a))),
     (⟨['o', 'r'], [.register ['b', 'x'], .register ['s', 'i']]⟩, .or .w16 (.reg (.r16 .ebx)) (.reg (.r16 .esi))),
     (⟨['x', 'o', 'r', 'l'], [.memory (.register ['e', 's', 'p']) 8 4 (some ['e', 'c', 'x']), .register ['e', 'd', 'x']]⟩, .xor .w32 (.mem ⟨.register .esp, 8, .x4, some .ecx⟩) (.reg (.r32 .edx))),
     (⟨['t', 'e', 's', 't', 'w'], [.literal (-1), .memoryNoBase 16 1 none]⟩, .test .w16 (.imm (-1)) (.mem ⟨.absent, 16, .x1, none⟩)),
     (⟨['m', 'o', 'v'], [.register ['c', 'l'], .memory (.literal 32) 0 2 (some ['e', 'd', 'i'])]⟩, .mov .w8 (.reg (.lo8 .ecx)) (.mem ⟨.literal 32, 0, .x2, some .edi⟩))] = true := by decide

theorem test_decode_one_operand : decodesTo
    [(⟨['i', 'n', 'c'], [.register ['e', 'a', 'x']]⟩, .inc .w32 (.reg (.r32 .eax))),
     (⟨['d', 'e', 'c'], [.register ['d', 'h']]⟩, .dec .w8 (.reg (.hi8 .d))),
     (⟨['n', 'e', 'g', 'w'], [.memory (.register ['e', 'b', 'p']) (-2) 1 none]⟩, .neg .w16 (.mem ⟨.register .ebp, -2, .x1, none⟩)),
     (⟨['n', 'o', 't'], [.memory (.register ['e', 's', 'p']) 0 1 none]⟩, .not .w32 (.mem ⟨.register .esp, 0, .x1, none⟩)),
     (⟨['m', 'u', 'l'], [.register ['e', 'c', 'x']]⟩, .mul (.reg (.r32 .ecx))),
     (⟨['i', 'm', 'u', 'l'], [.literal 4]⟩, .imul (.imm 4) none),
     (⟨['i', 'm', 'u', 'l', 'l'], [.literal 7, .register ['e', 'c', 'x']]⟩, .imul (.imm 7) (some .ecx)),
     (⟨['d', 'i', 'v', 'l'], [.memory (.register ['e', 's', 'p']) 0 1 none]⟩, .div (.mem ⟨.register .esp, 0, .x1, none⟩)),
     (⟨['i', 'd', 'i', 'v'], [.literal (-2)]⟩, .idiv (.imm (-2))),
     (⟨['p', 'u', 's', 'h'], [.literal 7]⟩, .push (.imm 7)),
     (⟨['p', 'o', 'p', 'l'], [.register ['e', 'b', 'x']]⟩, .pop (.reg (.r32 .ebx)))] = true := by decide

theorem test_decode_shift_rotate : decodesTo
    [(⟨['r', 'o', 'l'], [.register ['a', 'l']]⟩, .rol .w8 .one (.reg (.lo8 .eax))),
     (⟨['r', 'o', 'r'], [.literal 255, .register ['d', 'i']]⟩, .ror .w16 (.imm 255) (.reg (.r16 .edi))),
     (⟨['r', 'c', 'l', 'w'], [.register ['c', 'l'], .memory (.register ['e', 's', 'i']) 1 1 none]⟩, .rcl .w16 .cl (.mem ⟨.register .esi, 1, .x1, none⟩)),
     (⟨['r', 'c', 'r', 'l'], [.literal 0, .register ['e', 'b', 'p']]⟩, .rcr .w32 (.imm 0) (.reg (.r32 .ebp))),
     (⟨['s', 'h', 'l'], [.register ['a', 'l']]⟩, .shl .w8 .one (.reg (.lo8 .eax))),
     (⟨['s', 'a', 'l'], [.literal 255, .register ['d', 'i']]⟩, .sal .w16 (.imm 255) (.reg (.r16 .edi))),
     (⟨['s', 'h', 'r', 'w'], [.register ['c', 'l'], .memory (.register ['e', 's', 'i']) 1 1 none]⟩, .shr .w16 .cl (.mem ⟨.register .esi, 1, .x1, none⟩)),
     (⟨['s', 'a', 'r', 'l'], [.literal 0, .register ['e', 'b', 'p']]⟩, .sar .w32 (.imm 0) (.reg (.r32 .ebp)))] = true := by decide

theorem test_decode_jump : decodesTo
    [(⟨['j', 'o'], [.labelRef ['l']]⟩, .jo ['l']),
     (⟨['j', 'n', 'o'], [.labelRef ['l']]⟩, .jno ['l']),
     (⟨['j', 'b'], [.labelRef ['l']]⟩, .jb ['l']),
     (⟨['j', 'c'], [.labelRef ['l']]⟩, .jc ['l']),
     (⟨['j', 'n', 'a', 'e'], [.labelRef ['l']]⟩, .jnae ['l']),
     (⟨['j', 'a', 'e'], [.labelRef ['l']]⟩, .jae ['l']),
     (⟨['j', 'n', 'b'], [.labelRef ['l']]⟩, .jnb ['l']),
     (⟨['j', 'n', 'c'], [.labelRef ['l']]⟩, .jnc ['l']),
     (⟨['j', 'e'], [.labelRef ['l']]⟩, .je ['l']),
     (⟨['j', 'z'], [.labelRef ['l']]⟩, .jz ['l']),
     (⟨['j', 'n', 'e'], [.labelRef ['l']]⟩, .jne ['l']),
     (⟨['j', 'n', 'z'], [.labelRef ['l']]⟩, .jnz ['l']),
     (⟨['j', 'b', 'e'], [.labelRef ['l']]⟩, .jbe ['l']),
     (⟨['j', 'n', 'a'], [.labelRef ['l']]⟩, .jna ['l']),
     (⟨['j', 'a'], [.labelRef ['l']]⟩, .ja ['l']),
     (⟨['j', 'n', 'b', 'e'], [.labelRef ['l']]⟩, .jnbe ['l']),
     (⟨['j', 's'], [.labelRef ['l']]⟩, .js ['l']),
     (⟨['j', 'n', 's'], [.labelRef ['l']]⟩, .jns ['l']),
     (⟨['j', 'p'], [.labelRef ['l']]⟩, .jp ['l']),
     (⟨['j', 'p', 'e'], [.labelRef ['l']]⟩, .jpe ['l']),
     (⟨['j', 'n', 'p'], [.labelRef ['l']]⟩, .jnp ['l']),
     (⟨['j', 'p', 'o'], [.labelRef ['l']]⟩, .jpo ['l']),
     (⟨['j', 'l'], [.labelRef ['l']]⟩, .jl ['l']),
     (⟨['j', 'n', 'g', 'e'], [.labelRef ['l']]⟩, .jnge ['l']),
     (⟨['j', 'g', 'e'], [.labelRef ['l']]⟩, .jge ['l']),
     (⟨['j', 'n', 'l'], [.labelRef ['l']]⟩, .jnl ['l']),
     (⟨['j', 'l', 'e'], [.labelRef ['l']]⟩, .jle ['l']),
     (⟨['j', 'n', 'g'], [.labelRef ['l']]⟩, .jng ['l']),
     (⟨['j', 'g'], [.labelRef ['l']]⟩, .jg ['l']),
     (⟨['j', 'n', 'l', 'e'], [.labelRef ['l']]⟩, .jnle ['l'])] = true := by decide

theorem test_decode_cmov : decodesTo
    [(⟨['c', 'm', 'o', 'v', 'o'], [.literal 1, .register ['s', 'p']]⟩, .cmovo .w16 (.imm 1) (.reg (.r16 .esp))),
     (⟨['c', 'm', 'o', 'v', 'n', 'o'], [.register ['a', 'h'], .register ['b', 'l']]⟩, .cmovno .w8 (.reg (.hi8 .a)) (.reg (.lo8 .ebx))),
     (⟨['c', 'm', 'o', 'v', 'b'], [.register ['e', 'a', 'x'], .memoryNoBase 4 1 none]⟩, .cmovb .w32 (.reg (.r32 .eax)) (.mem ⟨.absent, 4, .x1, none⟩)),
     (⟨['c', 'm', 'o', 'v', 'c'], [.literal 1, .register ['s', 'p']]⟩, .cmovc .w16 (.imm 1) (.reg (.r16 .esp))),
     (⟨['c', 'm', 'o', 'v', 'n', 'a', 'e'], [.register ['a', 'h'], .register ['b', 'l']]⟩, .cmovnae .w8 (.reg (.hi8 .a)) (.reg (.lo8 .ebx))),
     (⟨['c', 'm', 'o', 'v', 'a', 'e'], [.register ['e', 'a', 'x'], .memoryNoBase 4 1 none]⟩, .cmovae .w32 (.reg (.r32 .eax)) (.mem ⟨.absent, 4, .x1, none⟩)),
     (⟨['c', 'm', 'o', 'v', 'n', 'b'], [.literal 1, .register ['s', 'p']]⟩, .cmovnb .w16 (.imm 1) (.reg (.r16 .esp))),
     (⟨['c', 'm', 'o', 'v', 'n', 'c'], [.register ['a', 'h'], .register ['b', 'l']]⟩, .cmovnc .w8 (.reg (.hi8 .a)) (.reg (.lo8 .ebx))),
     (⟨['c', 'm', 'o', 'v', 'e'], [.register ['e', 'a', 'x'], .memoryNoBase 4 1 none]⟩, .cmove .w32 (.reg (.r32 .eax)) (.mem ⟨.absent, 4, .x1, none⟩)),
     (⟨['c', 'm', 'o', 'v', 'z'], [.literal 1, .register ['s', 'p']]⟩, .cmovz .w16 (.imm 1) (.reg (.r16 .esp))),
     (⟨['c', 'm', 'o', 'v', 'n', 'e'], [.register ['a', 'h'], .register ['b', 'l']]⟩, .cmovne .w8 (.reg (.hi8 .a)) (.reg (.lo8 .ebx))),
     (⟨['c', 'm', 'o', 'v', 'n', 'z'], [.register ['e', 'a', 'x'], .memoryNoBase 4 1 none]⟩, .cmovnz .w32 (.reg (.r32 .eax)) (.mem ⟨.absent, 4, .x1, none⟩)),
     (⟨['c', 'm', 'o', 'v', 'b', 'e'], [.literal 1, .register ['s', 'p']]⟩, .cmovbe .w16 (.imm 1) (.reg (.r16 .esp))),
     (⟨['c', 'm', 'o', 'v', 'n', 'a'], [.register ['a', 'h'], .register ['b', 'l']]⟩, .cmovna .w8 (.reg (.hi8 .a)) (.reg (.lo8 .ebx))),
     (⟨['c', 'm', 'o', 'v', 'a'], [.register ['e', 'a', 'x'], .memoryNoBase 4 1 none]⟩, .cmova .w32 (.reg (.r32 .eax)) (.mem ⟨.absent, 4, .x1, none⟩)),
     (⟨['c', 'm', 'o', 'v', 'n', 'b', 'e'], [.literal 1, .register ['s', 'p']]⟩, .cmovnbe .w16 (.imm 1) (.reg (.r16 .esp))),
     (⟨['c', 'm', 'o', 'v', 's'], [.register ['a', 'h'], .register ['b', 'l']]⟩, .cmovs .w8 (.reg (.hi8 .a)) (.reg (.lo8 .ebx))),
     (⟨['c', 'm', 'o', 'v', 'n', 's'], [.register ['e', 'a', 'x'], .memoryNoBase 4 1 none]⟩, .cmovns .w32 (.reg (.r32 .eax)) (.mem ⟨.absent, 4, .x1, none⟩)),
     (⟨['c', 'm', 'o', 'v', 'p'], [.literal 1, .register ['s', 'p']]⟩, .cmovp .w16 (.imm 1) (.reg (.r16 .esp))),
     (⟨['c', 'm', 'o', 'v', 'p', 'e'], [.register ['a', 'h'], .register ['b', 'l']]⟩, .cmovpe .w8 (.reg (.hi8 .a)) (.reg (.lo8 .ebx))),
     (⟨['c', 'm', 'o', 'v', 'n', 'p'], [.register ['e', 'a', 'x'], .memoryNoBase 4 1 none]⟩, .cmovnp .w32 (.reg (.r32 .eax)) (.mem ⟨.absent, 4, .x1, none⟩)),
     (⟨['c', 'm', 'o', 'v', 'p', 'o'], [.literal 1, .register ['s', 'p']]⟩, .cmovpo .w16 (.imm 1) (.reg (.r16 .esp))),
     (⟨['c', 'm', 'o', 'v', 'l'], [.register ['a', 'h'], .register ['b', 'l']]⟩, .cmovl .w8 (.reg (.hi8 .a)) (.reg (.lo8 .ebx))),
     (⟨['c', 'm', 'o', 'v', 'n', 'g', 'e'], [.register ['e', 'a', 'x'], .memoryNoBase 4 1 none]⟩, .cmovnge .w32 (.reg (.r32 .eax)) (.mem ⟨.absent, 4, .x1, none⟩)),
     (⟨['c', 'm', 'o', 'v', 'g', 'e'], [.literal 1, .register ['s', 'p']]⟩, .cmovge .w16 (.imm 1) (.reg (.r16 .esp))),
     (⟨['c', 'm', 'o', 'v', 'n', 'l'], [.register ['a', 'h'], .register ['b', 'l']]⟩, .cmovnl .w8 (.reg (.hi8 .a)) (.reg (.lo8 .ebx))),
     (⟨['c', 'm', 'o', 'v', 'l', 'e'], [.register ['e', 'a', 'x'], .memoryNoBase 4 1 none]⟩, .cmovle .w32 (.reg (.r32 .eax)) (.mem ⟨.absent, 4, .x1, none⟩)),
     (⟨['c', 'm', 'o', 'v', 'n', 'g'], [.literal 1, .register ['s', 'p']]⟩, .cmovng .w16 (.imm 1) (.reg (.r16 .esp))),
     (⟨['c', 'm', 'o', 'v', 'g'], [.register ['a', 'h'], .register ['b', 'l']]⟩, .cmovg .w8 (.reg (.hi8 .a)) (.reg (.lo8 .ebx))),
     (⟨['c', 'm', 'o', 'v', 'n', 'l', 'e'], [.register ['e', 'a', 'x'], .memoryNoBase 4 1 none]⟩, .cmovnle .w32 (.reg (.r32 .eax)) (.mem ⟨.absent, 4, .x1, none⟩))] = true := by decide

theorem test_decode_set : decodesTo
    [(⟨['s', 'e', 't', 'o'], [.register ['c', 'h']]⟩, .seto (.reg (.hi8 .c))),
     (⟨['s', 'e', 't', 'n', 'o'], [.memory (.register ['e', 'd', 'x']) 3 1 none]⟩, .setno (.mem ⟨.register .edx, 3, .x1, none⟩)),
     (⟨['s', 'e', 't', 'b'], [.register ['c', 'h']]⟩, .setb (.reg (.hi8 .c))),
     (⟨['s', 'e', 't', 'c'], [.memory (.register ['e', 'd', 'x']) 3 1 none]⟩, .setc (.mem ⟨.register .edx, 3, .x1, none⟩)),
     (⟨['s', 'e', 't', 'n', 'a', 'e'], [.register ['c', 'h']]⟩, .setnae (.reg (.hi8 .c))),
     (⟨['s', 'e', 't', 'a', 'e'], [.memory (.register ['e', 'd', 'x']) 3 1 none]⟩, .setae (.mem ⟨.register .edx, 3, .x1, none⟩)),
     (⟨['s', 'e', 't', 'n', 'b'], [.register ['c', 'h']]⟩, .setnb (.reg (.hi8 .c))),
     (⟨['s', 'e', 't', 'n', 'c'], [.memory (.register ['e', 'd', 'x']) 3 1 none]⟩, .setnc (.mem ⟨.register .edx, 3, .x1, none⟩)),
     (⟨['s', 'e', 't', 'e'], [.register ['c', 'h']]⟩, .sete (.reg (.hi8 .c))),
     (⟨['s', 'e', 't', 'z'], [.memory (.register ['e', 'd', 'x']) 3 1 none]⟩, .setz (.mem ⟨.register .edx, 3, .x1, none⟩)),
     (⟨['s', 'e', 't', 'n', 'e'], [.register ['c', 'h']]⟩, .setne (.reg (.hi8 .c))),
     (⟨['s', 'e', 't', 'n', 'z'], [.memory (.register ['e', 'd', 'x']) 3 1 none]⟩, .setnz (.mem ⟨.register .edx, 3, .x1, none⟩)),
     (⟨['s', 'e', 't', 'b', 'e'], [.register ['c', 'h']]⟩, .setbe (.reg (.hi8 .c))),
     (⟨['s', 'e', 't', 'n', 'a'], [.memory (.register ['e', 'd', 'x']) 3 1 none]⟩, .setna (.mem ⟨.register .edx, 3, .x1, none⟩)),
     (⟨['s', 'e', 't', 'a'], [.register ['c', 'h']]⟩, .seta (.reg (.hi8 .c))),
     (⟨['s', 'e', 't', 'n', 'b', 'e'], [.memory (.register ['e', 'd', 'x']) 3 1 none]⟩, .setnbe (.mem ⟨.register .edx, 3, .x1, none⟩)),
     (⟨['s', 'e', 't', 's'], [.register ['c', 'h']]⟩, .sets (.reg (.hi8 .c))),
     (⟨['s', 'e', 't', 'n', 's'], [.memory (.register ['e', 'd', 'x']) 3 1 none]⟩, .setns (.mem ⟨.register .edx, 3, .x1, none⟩)),
     (⟨['s', 'e', 't', 'p'], [.register ['c', 'h']]⟩, .setp (.reg (.hi8 .c))),
     (⟨['s', 'e', 't', 'p', 'e'], [.memory (.register ['e', 'd', 'x']) 3 1 none]⟩, .setpe (.mem ⟨.register .edx, 3, .x1, none⟩)),
     (⟨['s', 'e', 't', 'n', 'p'], [.register ['c', 'h']]⟩, .setnp (.reg (.hi8 .c))),
     (⟨['s', 'e', 't', 'p', 'o'], [.memory (.register ['e', 'd', 'x']) 3 1 none]⟩, .setpo (.mem ⟨.register .edx, 3, .x1, none⟩)),
     (⟨['s', 'e', 't', 'l'], [.register ['c', 'h']]⟩, .setl (.reg (.hi8 .c))),
     (⟨['s', 'e', 't', 'n', 'g', 'e'], [.memory (.register ['e', 'd', 'x']) 3 1 none]⟩, .setnge (.mem ⟨.register .edx, 3, .x1, none⟩)),
     (⟨['s', 'e', 't', 'g', 'e'], [.register ['c', 'h']]⟩, .setge (.reg (.hi8 .c))),
     (⟨['s', 'e', 't', 'n', 'l'], [.memory (.register ['e', 'd', 'x']) 3 1 none]⟩, .setnl (.mem ⟨.register .edx, 3, .x1, none⟩)),
     (⟨['s', 'e', 't', 'l', 'e'], [.register ['c', 'h']]⟩, .setle (.reg (.hi8 .c))),
     (⟨['s', 'e', 't', 'n', 'g'], [.memory (.register ['e', 'd', 'x']) 3 1 none]⟩, .setng (.mem ⟨.register .edx, 3, .x1, none⟩)),
     (⟨['s', 'e', 't', 'g'], [.register ['c', 'h']]⟩, .setg (.reg (.hi8 .c))),
     (⟨['s', 'e', 't', 'n', 'l', 'e'], [.memory (.register ['e', 'd', 'x']) 3 1 none]⟩, .setnle (.mem ⟨.register .edx, 3, .x1, none⟩))] = true := by decide

theorem test_decode_string : decodesTo
    [(⟨['c', 'm', 'p', 's', 'b'], []⟩, .cmpsb),
     (⟨['c', 'm', 'p', 's', 'w'], []⟩, .cmpsw),
     (⟨['c', 'm', 'p', 's', 'd'], []⟩, .cmpsd),
     (⟨['c', 'm', 'p', 's', 'l'], []⟩, .cmpsl),
     (⟨['m', 'o', 'v', 's', 'b'], []⟩, .movsb),
     (⟨['m', 'o', 'v', 's', 'w'], []⟩, .movsw),
     (⟨['m', 'o', 'v', 's', 'd'], []⟩, .movsd),
     (⟨['m', 'o', 'v', 's', 'l'], []⟩, .movsl),
     (⟨['s', 'c', 'a', 's', 'b'], []⟩, .scasb),
     (⟨['s', 'c', 'a', 's', 'w'], []⟩, .scasw),
     (⟨['s', 'c', 'a', 's', 'd'], []⟩, .scasd),
     (⟨['s', 'c', 'a', 's', 'l'], []⟩, .scasl),
     (⟨['s', 't', 'o', 's', 'b'], []⟩, .stosb),
     (⟨['s', 't', 'o', 's', 'w'], []⟩, .stosw),
     (⟨['s', 't', 'o', 's', 'd'], []⟩, .stosd),
     (⟨['s', 't', 'o', 's', 'l'], []⟩, .stosl),
     (⟨['l', 'o', 'd', 's', 'b'], []⟩, .lodsb),
     (⟨['l', 'o', 'd', 's', 'w'], []⟩, .lodsw),
     (⟨['l', 'o', 'd', 's', 'd'], []⟩, .lodsd),
     (⟨['l', 'o', 'd', 's', 'l'], []⟩, .lodsl)] = true := by decide

theorem test_decode_control : decodesTo
    [(⟨['p', 'u', 's', 'h', 'f'], []⟩, .pushf),
     (⟨['p', 'u', 's', 'h', 'f', 'l'], []⟩, .pushfl),
     (⟨['p', 'u', 's', 'h', 'f', 'd'], []⟩, .pushfd),
     (⟨['p', 'o', 'p', 'f'], []⟩, .popf),
     (⟨['p', 'o', 'p', 'f', 'l'], []⟩, .popfl),
     (⟨['p', 'o', 'p', 'f', 'd'], []⟩, .popfd),
     (⟨['l', 'a', 'h', 'f'], []⟩, .lahf),
     (⟨['s', 'a', 'h', 'f'], []⟩, .sahf),
     (⟨['l', 'e', 'a', 'v', 'e'], []⟩, .leave),
     (⟨['n', 'o', 'p'], []⟩, .nop),
     (⟨['h', 'l', 't'], []⟩, .hlt),
     (⟨['j', 'm', 'p'], [.labelRef ['l']]⟩, .jmp ['l']),
     (⟨['c', 'a', 'l', 'l'], [.labelRef ['l']]⟩, .call ['l']),
     (⟨['r', 'e', 't'], []⟩, .ret none),
     (⟨['r', 'e', 't'], [.literal 65535]⟩, .ret (some 65535)),
     (⟨['e', 'n', 't', 'e', 'r'], [.literal 8]⟩, .enter 8 none),
     (⟨['e', 'n', 't', 'e', 'r'], [.literal 65535, .literal 255]⟩, .enter 65535 (some 255))] = true := by decide

/-! ## Single steps -/

/-- A2: signed overflow. -/
theorem test_add : nextIs (exec (.add .w32 (.imm 1) (.reg (.r32 .eax))) (withEax 0x7FFFFFFF))
    (fun t => t.cell .eax == 0x80000000#32 && six t == [false, false, true, false, true, true] && t.pc == 1) = true := by decide

/-- A4: a 16-bit wrap keeps bits 31..16. -/
theorem test_add_narrow : nextIs (exec (.add .w16 (.imm 1) (.reg (.r16 .eax))) (withEax 0x1234FFFF))
    (fun t => t.cell .eax == 0x12340000#32 && six t == [true, false, true, true, false, false]) = true := by decide

/-- A9: the carry step overflows. -/
theorem test_adc : nextIs (exec (.adc .w8 (.imm (-1)) (.reg (.lo8 .eax))) (State.carry (withEax 0x7F)))
    (fun t => t.cell .eax == 0x7F#32 && six t == [true, true, false, false, false, true]) = true := by decide

/-- A11: borrow. -/
theorem test_sub : nextIs (exec (.sub .w32 (.imm 1) (.reg (.r32 .eax))) (withEax 0))
    (fun t => t.cell .eax == 0xFFFFFFFF#32 && six t == [true, false, true, false, true, false]) = true := by decide

/-- A28 and A29: the two readings of R210. -/
theorem test_sbb_alias :
    nextIs (exec (.sbb .w32 (.reg (.r32 .eax)) (.reg (.r32 .eax))) (State.carry (withEax 7)))
      (fun t => t.cell .eax == 0xFFFFFFFF#32 && six t == [true, false, true, false, true, false]) = true ∧
    nextIs (exec (.sbb .w32 (.reg (.r32 .eax)) (.reg (.r32 .eax)))
        { State.carry (withEax 7) with cfg := { cfg56 with adcSbbAlias := .inplace } })
      (fun t => t.cell .eax == 0#32 && six t == [false, false, false, true, false, false]) = true := by decide

/-- A18: `eax` is unchanged. -/
theorem test_cmp : nextIs (exec (.cmp .w32 (.imm 5) (.reg (.r32 .eax))) (withEax 3))
    (fun t => t.cell .eax == 3#32 && six t == [true, true, true, false, true, false]) = true := by decide

/-- A22: only bits 15..8 change. -/
theorem test_inc : nextIs (exec (.inc .w8 (.reg (.hi8 .a))) (withEax 0xFF12))
    (fun t => t.cell .eax == 0x12#32 && six t == [false, false, true, true, false, false]) = true := by decide

/-- A24: CF is kept. -/
theorem test_dec : nextIs (exec (.dec .w32 (.reg (.r32 .eax))) (State.carry (withEax 1)))
    (fun t => t.cell .eax == 0#32 && six t == [true, false, false, true, false, false]) = true := by decide

/-- A27: memory, 16 bits. -/
theorem test_neg : nextIs (exec (.neg .w16 (.mem ⟨.register .esp, 0, .x1, none⟩)) (withWord 0x80 5 core56))
    (fun t => t.mem == [(0x80, 0xFB), (0x81, 0xFF)] && six t == [true, true, true, false, true, false]) = true := by decide

/-- L7: the default `CLEAR_SCOPE` clears DF. -/
theorem test_and : nextIs (exec (.and .w32 (.reg (.r32 .eax)) (.reg (.r32 .eax)))
      ((withEax 0x100).withFlags { Flags.clear with df := true, cf := true }))
    (fun t => t.cell .eax == 0x100#32 && t.flags == Flags.clear) = true := by decide

/-- L12. -/
theorem test_or : nextIs (exec (.or .w32 (.imm 1) (.reg (.r32 .eax))) (withEax 0x80000000))
    (fun t => t.cell .eax == 0x80000001#32 && six t == [false, true, false, false, true, false]) = true := by decide

/-- L11: `$-1` at 16 bits is 0xFFFF. -/
theorem test_xor : nextIs (exec (.xor .w16 (.imm (-1)) (.reg (.r16 .eax))) (withEax 0x12340000))
    (fun t => t.cell .eax == 0x1234FFFF#32 && six t == [false, false, false, false, true, false]) = true := by decide

/-- L13. -/
theorem test_test : nextIs (exec (.test .w32 (.imm 0x0F) (.reg (.r32 .eax))) (withEax 0xF0))
    (fun t => t.cell .eax == 0xF0#32 && six t == [false, false, false, true, false, false]) = true := by decide

/-- L14: bits 31..16 and the flags are kept. -/
theorem test_not : nextIs (exec (.not .w16 (.reg (.r16 .eax))) (State.carry (withEax 0xABCD00FF)))
    (fun t => t.cell .eax == 0xABCDFF00#32 && six t == [true, false, false, false, false, false]) = true := by decide

/-- M2: AF is free. -/
theorem test_mul : nextIs (exec (.mul (.reg (.r32 .eax))) (withEax 0xFFFFFFFF))
    (fun t => t.cell .eax == 1#32 && t.cell .edx == 0xFFFFFFFE#32 && t.flags.cf && t.flags.ovf && t.flags.pf && !t.flags.zf) = true := by
  rfl

/-- M5: the product does not fit; M9: two operands, `edx` not written. -/
theorem test_imul :
    nextIs (exec (.imul (.imm (-1)) none) (withEax 0x80000000))
      (fun t => t.cell .eax == 0x80000000#32 && t.cell .edx == 0#32 && t.flags.cf && t.flags.ovf) = true ∧
    nextIs (exec (.imul (.imm 7) (some .ecx)) (core56.setCell .ecx 0xFFFFFFFD))
      (fun t => t.cell .ecx == 0xFFFFFFEB#32 && t.cell .edx == 0#32 && !t.flags.cf && !t.flags.ovf) = true := ⟨rfl, rfl⟩

/-- M14: a quotient of 2^31. -/
theorem test_div : nextIs (exec (.div (.imm 2)) (core56.setCell .edx 1))
    (fun t => t.cell .eax == 0x80000000#32 && t.cell .edx == 0#32) = true := by rfl

/-- M13: a quotient of 2^32 halts the run and writes nothing. -/
theorem test_div_overflow : exec (.div (.imm 1)) (core56.setCell .edx 1) =
    .next { core56.setCell .edx 1 with status := .halted (.error .quotientOverflow) } := by rfl

/-- M17: 7 / -2. -/
theorem test_idiv : nextIs (exec (.idiv (.imm (-2))) (withEax 7))
    (fun t => t.cell .eax == 0xFFFFFFFD#32 && t.cell .edx == 1#32) = true := by rfl

/-- M19: -2^31 / -1. -/
theorem test_idiv_overflow : nextIs (exec (.idiv (.imm (-1))) ((withEax 0x80000000).setCell .edx 0xFFFFFFFF))
    (fun t => t.status == .halted (.error .quotientOverflow) && t.pc == 0 && t.cell .eax == 0x80000000#32) = true := by rfl

/-- The example of R281. -/
theorem test_rol : nextIs (exec (.rol .w8 .one (.reg (.lo8 .eax))) (withEax 0x81))
    (fun t => t.cell .eax == 3#32 && t.flags.cf && t.flags.ovf) = true := by rfl

/-- The corner case of R281: rotating 8 bits by 8 keeps the value and sets CF to bit 0. -/
theorem test_rol_full : nextIs (exec (.rol .w8 (.imm 8) (.reg (.lo8 .eax))) (withEax 0x81))
    (fun t => t.cell .eax == 0x81#32 && t.flags.cf) = true := by rfl

/-- The example of R282. -/
theorem test_ror : nextIs (exec (.ror .w8 .one (.reg (.lo8 .eax))) (withEax 1))
    (fun t => t.cell .eax == 0x80#32 && t.flags.cf && t.flags.ovf) = true := by rfl

/-- The example of R283. -/
theorem test_rcl : nextIs (exec (.rcl .w8 .one (.reg (.lo8 .eax))) (withEax 0x80))
    (fun t => t.cell .eax == 0#32 && t.flags.cf && t.flags.ovf) = true := by rfl

/-- The example of R284. -/
theorem test_rcr : nextIs (exec (.rcr .w8 .one (.reg (.lo8 .eax))) (State.carry (withEax 1)))
    (fun t => t.cell .eax == 0x80#32 && t.flags.cf && t.flags.ovf) = true := by rfl

/-- The example of R285, for both spellings. -/
theorem test_shl :
    nextIs (exec (.shl .w32 .one (.reg (.r32 .eax))) (withEax 0x80000001))
      (fun t => t.cell .eax == 2#32 && t.flags.cf && t.flags.ovf) = true ∧
    nextIs (exec (.sal .w32 .one (.reg (.r32 .eax))) (withEax 0x80000001))
      (fun t => t.cell .eax == 2#32 && t.flags.cf && t.flags.ovf) = true := ⟨rfl, rfl⟩

/-- R280: a count of 32 is 0 and changes no flag; the corner case of R285: a count above the width gives 0 with CF = 0. -/
theorem test_shl_counts :
    nextIs (exec (.shl .w32 (.imm 32) (.reg (.r32 .eax))) (State.carry (withEax 5)))
      (fun t => t.cell .eax == 5#32 && six t == [true, false, false, false, false, false]) = true ∧
    nextIs (exec (.shl .w8 .cl (.reg (.lo8 .eax))) ((withEax 0xFF).setCell .ecx 9))
      (fun t => t.cell .eax == 0#32 && !t.flags.cf) = true := ⟨rfl, rfl⟩

/-- The example of R286. -/
theorem test_shr : nextIs (exec (.shr .w32 .one (.reg (.r32 .eax))) (withEax 0x80000001))
    (fun t => t.cell .eax == 0x40000000#32 && t.flags.cf && t.flags.ovf) = true := by rfl

/-- The example of R287. -/
theorem test_sar : nextIs (exec (.sar .w8 .one (.reg (.lo8 .eax))) (withEax 0x81))
    (fun t => t.cell .eax == 0xC0#32 && t.flags.cf && !t.flags.ovf) = true := by rfl

/-- Flags under which exactly the conditions NO, AE, E, BE, NS, P, GE, LE hold (ZF = PF = 1, the truth table of R310 to R325). -/
def zeroFlags : Flags := { Flags.clear with zf := true, pf := true }

/-- Flags under which exactly the conditions O, B, NE, BE, S, NP, GE, G hold (CF = SF = OF = 1). -/
def carryFlags : Flags := { Flags.clear with cf := true, sf := true, ovf := true }

/-- The conditions that hold, by R310 to R325, worked out by hand. -/
theorem test_conditions :
    ([Cond.o, .no, .b, .ae, .e, .ne, .be, .a, .s, .ns, .p, .np, .l, .ge, .le, .g].filter (condHolds zeroFlags)) =
      [.no, .ae, .e, .be, .ns, .p, .ge, .le] ∧
    ([Cond.o, .no, .b, .ae, .e, .ne, .be, .a, .s, .ns, .p, .np, .l, .ge, .le, .g].filter (condHolds carryFlags)) =
      [.o, .b, .ne, .be, .s, .np, .ge, .g] := by decide

/-- `core56` with a label and flags. -/
def atLabel (f : Flags) : State := { core56 with labels := [(['l'], 7)], flags := f }

/-- The jumps taken under `zeroFlags`, in the order of R125's spellings. -/
theorem test_jumps : jumpSpellings.map (fun p => nextIs (exec (p.2 ['l']) (atLabel zeroFlags)) (fun t => t.pc == 7)) =
    [false, true, false, false, false, true, true, true, true, true, false, false, true, true, false, false, false, true, true,
      true, false, false, false, false, true, true, true, true, false, false] := by decide

/-- The moves made under `carryFlags`. -/
theorem test_cmovs :
    cmovSpellings.map (fun p => nextIs (exec (p.2 .w32 (.reg (.r32 .esp)) (.reg (.r32 .eax))) (atLabel carryFlags))
      (fun t => t.cell .eax == 0x80#32)) =
    [true, false, true, true, true, false, false, false, false, false, true, true, true, true, false, false, true, false, false,
      false, true, true, false, false, true, true, false, false, true, true] := by decide

/-- The bytes set under `carryFlags`: the example of R329 for the destination. -/
theorem test_sets :
    setSpellings.map (fun p => nextIs (exec (p.2 (.reg (.lo8 .eax))) ((atLabel carryFlags).setCell .eax 0x12345678))
      (fun t => t.cell .eax == 0x12345601#32)) =
    [true, false, true, true, true, false, false, false, false, false, true, true, true, true, false, false, true, false, false,
      false, true, true, false, false, true, true, false, false, true, true] := by decide

/-- R327: a label that is not in the table, under both policies. -/
theorem test_missing_label :
    exec (.je ['m']) (atLabel Flags.clear) =
      .next { atLabel Flags.clear with status := .halted (.error (.invalidLabel ['m'])) } ∧
    nextIs (exec (.jmp ['m']) { atLabel Flags.clear with cfg := { cfg56 with labelMissPolicy := .skip } })
      (fun t => t.pc == 1 && t.status == .running) = true :=
  ⟨rfl, by decide⟩

/-- The state of the string examples: `esi = 0x10`, `edi = 0x20`. -/
def strings (m : Memory) : State := { (core56.setCell .esi 0x10).setCell .edi 0x20 with mem := m }

/-- The example of R341. -/
theorem test_cmps : nextIs (exec .cmpsb (strings [(0x10, 5), (0x20, 7)]))
    (fun t => six t == [true, true, true, false, true, false] && t.cell .esi == 0x11#32 && t.cell .edi == 0x21#32) = true := by decide

/-- R340 and R342: `movsd` moves four bytes; under `STRING_STEP = width` and DF the pointers fall by 4. -/
theorem test_movs : nextIs (exec .movsd { strings [(0x10, 1), (0x11, 2), (0x12, 3), (0x13, 4)] with
      cfg := { cfg56 with stringStep := .width }, flags := { Flags.clear with df := true } })
    (fun t => t.mem == [(0x10, 1), (0x11, 2), (0x12, 3), (0x13, 4), (0x20, 1), (0x21, 2), (0x22, 3), (0x23, 4)] &&
      t.cell .esi == 0x0C#32 && t.cell .edi == 0x1C#32) = true := by decide

/-- The example of R343. -/
theorem test_scas : nextIs (exec .scasb { (strings [(0x20, 0x41)]).setCell .eax 0x41 with flags := { Flags.clear with df := true } })
    (fun t => t.flags.zf && !t.flags.cf && t.cell .edi == 0x1F#32 && t.cell .esi == 0x10#32) = true := by decide

/-- The example of R344: bytes in order, and a step of 1 by default. -/
theorem test_stos : nextIs (exec .stosd ((strings []).setCell .eax 0x11223344))
    (fun t => t.mem == [(0x20, 0x44), (0x21, 0x33), (0x22, 0x22), (0x23, 0x11)] && t.cell .edi == 0x21#32) = true := by decide

/-- The example of R345: the rest of `eax` is kept. -/
theorem test_lods : nextIs (exec .lodsb ((strings [(0x10, 0x41)]).setCell .eax 0xFFFFFFFF))
    (fun t => t.cell .eax == 0xFFFFFF41#32 && t.cell .esi == 0x11#32 && t.cell .edi == 0x20#32) = true := by decide

/-- The spellings of one string operation agree with the width of their letter: `l` is `d`, `w` is 16 bits. -/
theorem test_string_widths :
    nextIs (exec .stosw ((strings []).setCell .eax 0x11223344)) (fun t => t.mem == [(0x20, 0x44), (0x21, 0x33)]) = true ∧
      exec .cmpsl (strings []) = exec .cmpsd (strings []) ∧ exec .lodsl (strings []) = exec .lodsd (strings []) :=
  ⟨by decide, rfl, rfl⟩

/-- The example of R360, and its flag clear. -/
theorem test_mov : nextIs (exec (.mov .w32 (.imm 4) (.mem ⟨.register .esp, 0, .x1, none⟩)) (State.carry core56))
    (fun t => t.mem == [(0x80, 4)] && t.flags == Flags.clear && t.pc == 1) = true := by decide

/-- The example of R361. -/
theorem test_push : nextIs (exec (.push (.reg (.r32 .eax))) (withEax 0x11223344))
    (fun t => t.cell .esp == 0x7C#32 && t.mem == [(0x7C, 0x44), (0x7D, 0x33), (0x7E, 0x22), (0x7F, 0x11)]) = true := by decide

/-- R363: `push %esp` under both single-valued policies. -/
theorem test_push_esp :
    nextIs (exec (.push (.reg (.r32 .esp))) core56) (fun t => t.mem == [(0x7C, 0x80)]) = true ∧
      nextIs (exec (.push (.reg (.r32 .esp))) { core56 with cfg := { cfg56 with pushPopEsp := .inplace } })
        (fun t => t.mem == [(0x7C, 0x7C)]) = true := by decide

/-- The corner case of R362: `pop 0(%esp)` leaves memory and raises `esp`. -/
theorem test_pop : nextIs (exec (.pop (.mem ⟨.register .esp, 0, .x1, none⟩)) (withWord 0x80 9 core56))
    (fun t => t.cell .esp == 0x84#32 && t.mem == [(0x80, 9)]) = true := by decide

/-- R363: `pop %esp` leaves the loaded word. -/
theorem test_pop_esp : nextIs (exec (.pop (.reg (.r32 .esp))) (withWord 0x80 9 core56)) (fun t => t.cell .esp == 9#32) = true := by
  decide

/-- The example of R364, for the three spellings. -/
theorem test_pushf : [Instr.pushf, .pushfl, .pushfd].all (fun i => nextIs (exec i
      (core56.withFlags { Flags.clear with cf := true, zf := true }))
    (fun t => t.cell .esp == 0x7C#32 && t.mem == [(0x7C, 0x43)])) = true := by decide

/-- The example of R365, for the three spellings. -/
theorem test_popf : [Instr.popf, .popfl, .popfd].all (fun i => nextIs (exec i (State.carry (withWord 0x80 0x400 core56)))
    (fun t => t.flags == { Flags.clear with df := true } && t.cell .esp == 0x84#32)) = true := by decide

/-- The example of R366. -/
theorem test_lahf : nextIs (exec .lahf (core56.withFlags { Flags.clear with sf := true, pf := true }))
    (fun t => t.cell .eax == 0x8600#32) = true := by decide

/-- The example of R367: OF is unchanged. -/
theorem test_sahf : nextIs (exec .sahf (withEax 0xFF00)) (fun t => six t == [true, true, true, true, true, false]) = true := by
  decide

/-- The example of R368. -/
theorem test_jmp : nextIs (exec (.jmp ['l']) (atLabel Flags.clear)) (fun t => t.pc == 7) = true := by decide

/-- The example of R369. -/
theorem test_call : nextIs (exec (.call ['l']) { atLabel Flags.clear with pc := 2 })
    (fun t => t.pc == 7 && t.cell .esp == 0x7C#32 && t.mem == [(0x7C, 3)]) = true := by decide

/-- The example of R370. -/
theorem test_ret :
    nextIs (exec (.ret none) ((withWord 0x7C 3 core56).setCell .esp 0x7C)) (fun t => t.pc == 3 && t.cell .esp == 0x80#32) = true ∧
      nextIs (exec (.ret (some 8)) ((withWord 0x7C 3 core56).setCell .esp 0x7C))
        (fun t => t.pc == 3 && t.cell .esp == 0x88#32) = true := by decide

/-- The example of R371. -/
theorem test_enter : nextIs (exec (.enter 8 none) (core56.setCell .ebp 0x90))
    (fun t => t.mem == [(0x7C, 0x90)] && t.cell .ebp == 0x7C#32 && t.cell .esp == 0x74#32) = true := by decide

/-- R371 at level 3, worked by hand: `ebp`, two outer frame pointers and the new one are pushed. -/
theorem test_enter_level : nextIs (exec (.enter 4 (some 3)) (withWord 0x8C 0x11 (withWord 0x88 0x22 (core56.setCell .ebp 0x90))))
    (fun t => t.mem == [(0x70, 0x7C), (0x74, 0x22), (0x78, 0x11), (0x7C, 0x90), (0x88, 0x22), (0x8C, 0x11)] &&
      t.cell .ebp == 0x7C#32 && t.cell .esp == 0x6C#32) = true := by decide

/-- The example of R372. -/
theorem test_leave : nextIs (exec .leave ((withWord 0x7C 0x90 core56).setCell .ebp 0x7C))
    (fun t => t.cell .esp == 0x80#32 && t.cell .ebp == 0x90#32) = true := by decide

/-- R373 and R374. -/
theorem test_nop_exit :
    nextIs (exec .nop (State.carry core56)) (fun t => t.pc == 1 && t.status == .running && t.flags.cf) = true ∧
      nextIs (exec .hlt core56) (fun t => t.pc == 1 && t.status == .halted .exit && t.exit) = true := by decide

/-- R84: the last word of memory is in bounds, the next address is not, and a negative address is not. -/
theorem test_bounds :
    nextIs (exec (.mov .w32 (.imm 1) (.mem ⟨.absent, 252, .x1, none⟩)) core56) (fun t => t.mem == [(252, 1)]) = true ∧
      nextIs (exec (.mov .w32 (.imm 1) (.mem ⟨.absent, 253, .x1, none⟩)) core56)
        (fun t => t.status == .halted (.error (.outOfBoundsMemoryAccess 253 4)) && t.mem == []) = true ∧
      nextIs (exec (.inc .w8 (.mem ⟨.absent, -1, .x1, none⟩)) core56)
        (fun t => t.status == .halted (.error (.outOfBoundsMemoryAccess (-1) 1))) = true := by decide

/-! ## The dispatch loop -/

/-- The label program of the spec's W10. -/
def labelProgram : List ProgLine :=
  [.label ['s'] none, .plain (.instr ⟨['a', 'd', 'd'], [.literal 4, .register ['e', 'a', 'x']]⟩),
   .plain (.instr ⟨['j', 'm', 'p'], [.labelRef ['e']]⟩), .plain (.instr ⟨['d', 'e', 'c'], [.register ['e', 'a', 'x']]⟩),
   .label ['e'] (some (.instr ⟨['i', 'n', 'c'], [.register ['e', 'a', 'x']]⟩)), .label ['s'] (some .nop)]

/-- The resolving pass on it (R161): the first `s` wins. -/
theorem test_resolve : nextIs (step (State.initial cfg56 resetCells [] labelProgram))
    (fun t => t.labels == [(['s'], 0), (['e'], 3)] && t.stream.length == 5 && t.status == .running && t.pc == 0) = true := by decide

/-- The program after its resolving pass. -/
def labelState : State := (State.initial cfg56 resetCells [] labelProgram).resolve

/-- The `jmp` at index 1 (R368). -/
theorem test_step : nextIs (step { labelState with pc := 1 }) (fun t => t.pc == 3) = true := by decide

/-- R162 and R441: an empty program halts at its first running step, and nothing steps from there. -/
theorem test_end_of_stream :
    step (State.reset.resolve) = .next { State.reset.resolve with status := .halted .endOfStream } ∧
      step { State.reset with status := .halted .exit } = .fault (.halted .exit) :=
  ⟨rfl, rfl⟩

/-- The reset state meets the invariant, and its memory is canonical. -/
theorem test_reset_memory : Memory.wf State.reset.mem = true ∧ Memory.within State.reset.cfg.memSize State.reset.mem = true := by decide

/-- `withFetchWord` makes the very next step run the word's instruction (log 14): the bytes of `inc`. -/
theorem test_fetch_word : nextIs (step (State.reset.withFetchWord 24 0x636E69)) (fun t => t.pc == 1 && t.cell .eax == 1#32) = true := by
  decide

/-! ## Witnesses: for each obligation with hypotheses, a state and operands that meet all of them together -/

/-- The word at `esp`. -/
def top : MemRef := ⟨.register .esp, 0, .x1, none⟩

/-- An absolute address. -/
def at_ (a : I32) : MemRef := ⟨.absent, a, .x1, none⟩

/-- A running core whose stream is one line. -/
def oneLine (l : Line) : State := { core56 with stream := [l] }

/-- The record of `inc %eax`. -/
def incRecord : Record := ⟨['i', 'n', 'c'], [.register ['e', 'a', 'x']]⟩

theorem witness_DecodeEncodeAgree :
    Config.default.spellingsClear = true ∧ cfg56.spellingsClear = true ∧
      [Instr.add .w8 (.imm (-128)) (.mem ⟨.register .esp, -4, .x2, some .ecx⟩), .add .w8 (.imm 255) (.reg (.hi8 .d)),
        .mov .w16 (.imm 65535) (.mem (at_ 0)), .sar .w32 (.imm 255) (.reg (.r32 .edi)), .imul (.imm (-1)) (some .ebx),
        .ret (some 65535), .enter 65535 (some 255), .jpo [], .hlt].all (fun i => i.wellFormed .default) = true := by decide

theorem witness_DecodedIsWellFormed :
    decode .default ⟨['a', 'd', 'd', 'b'], [.literal 255, .memoryNoBase 0 1 none]⟩ =
      .ok (.add .w8 (.imm 255) (.mem ⟨.absent, 0, .x1, none⟩)) := by decide

theorem witness_DecodeErrors_mnemonic :
    (assoc ['h', 'l', 't'] rows = none ∧ ['h', 'l', 't'] ∈ Config.default.exitMnemonics) ∧
      (assoc ['f', 'o', 'o'] rows = none ∧ ['f', 'o', 'o'] ∉ Config.default.exitMnemonics ∧ lookupSuffixed ['f', 'o', 'o'] = none ∧
        ['f', 'o', 'o'] ∉ Config.default.unimplementedSet) ∧
      ['f', 'o', 'o'] ∈ { Config.default with unimplementedSet := [['f', 'o', 'o']] }.unimplementedSet ∧
      ['f', 'o', 'o'] ∉ { Config.default with unimplementedSet := [['f', 'o', 'o']] }.exitMnemonics := by decide

theorem witness_DecodeErrors_operands :
    decodeMnemonic .default ['a', 'd', 'd', 'b'] = .ok (.alu .add, some .w8) ∧ ([] : List Operand).length ≠ 2 ∧
      [Operand.literal 1, .literal 1, .literal 1].length ≠ 2 ∧ lookupReg .default ['f', 'o', 'o'] = none ∧
      admitOperand .default Opnd.src? (.literal 1) = .ok (.imm 1) := ⟨rfl, by decide, by decide, rfl, rfl⟩

theorem witness_StepRunsDecodedInstruction :
    (oneLine (.instr incRecord)).status = .running ∧
      (oneLine (.instr incRecord)).stream[(oneLine (.instr incRecord)).pc]? = some (.instr incRecord) ∧
      decode (oneLine (.instr incRecord)).cfg incRecord = .ok (.inc .w32 (.reg (.r32 .eax))) := by decide

theorem witness_OtherLines :
    (oneLine .nop).status = .running ∧ (oneLine .nop).stream[(oneLine .nop).pc]? = some .nop ∧
      (oneLine .directive).stream[(oneLine .directive).pc]? = some .directive ∧
      (oneLine .malformed).stream[(oneLine .malformed).pc]? = some .malformed ∧
      { oneLine .nop with pc := 1 }.stream.length ≤ { oneLine .nop with pc := 1 }.pc ∧
      (oneLine (.instr ⟨['f'], []⟩)).stream[(oneLine (.instr ⟨['f'], []⟩)).pc]? = some (.instr ⟨['f'], []⟩) ∧
      decode (oneLine (.instr ⟨['f'], []⟩)).cfg ⟨['f'], []⟩ = .error (.unknownMnemonic ['f']) := by decide

theorem witness_HaltedIsFinal :
    { core56 with status := .halted .exit }.status = .halted .exit := rfl

theorem witness_ResolvingPass :
    (State.initial cfg56 resetCells [] labelProgram).status = .resolving ∧
      (State.initial cfg56 resetCells [] labelProgram).program =
        labelProgram.take 4 ++ .label ['e'] (some (.instr incRecord)) :: [.label ['s'] (some .nop)] ∧
      (∀ l ∈ labelProgram.take 4, labelOf? l ≠ some ['e']) ∧
      (State.initial cfg56 resetCells [] labelProgram).program = [] ++ .label ['s'] none :: labelProgram.drop 1 ∧
      ∀ l ∈ labelProgram, labelOf? l ≠ some ['x'] := by decide

/-- The invariant holds after a resolving pass. -/
theorem labelState_inv : labelState.Inv where
  memCanonical := by decide
  memInside := by decide
  resolved := fun _ => rfl
  exitHalts := by decide
  endPc := fun h => by cases h
  errorPc := fun e h => by cases h

theorem witness_StepKeepsInv :
    labelState.Inv ∧ ∃ t, step labelState = .next t := ⟨labelState_inv, _, rfl⟩

theorem witness_InvInitially :
    Memory.wf [(0, 1), (255, 2)] = true ∧ Memory.within Config.default.memSize [(0, 1), (255, 2)] = true ∧
      labelState.Inv ∧ labelState.status = .running := ⟨by decide, by decide, labelState_inv, rfl⟩

theorem witness_ProgramIsReadOnly :
    (∃ t, step labelState = .next t) ∧ labelState.status ≠ .resolving := ⟨⟨_, rfl⟩, by decide⟩

theorem witness_ErrorCommitsNothing :
    ∃ t, (oneLine .malformed).status = .running ∧ step (oneLine .malformed) = .next t ∧
      t.status = .halted (.error .malformedInstructionText) := ⟨_, rfl, rfl, rfl⟩

theorem witness_ExitFlag :
    (∃ t, step { oneLine .nop with exit := true } = .next t ∧ { oneLine .nop with exit := true }.exit = true) ∧
      ∃ t, step (oneLine (.instr ⟨['h', 'l', 't'], []⟩)) = .next t ∧ (oneLine (.instr ⟨['h', 'l', 't'], []⟩)).exit = false ∧
        t.exit = true := ⟨⟨_, rfl, rfl⟩, _, rfl, rfl, rfl⟩

theorem witness_StoredOnlyFlagsUnread :
    Instr.lahf ∉ pushfSpellings ∧ LiveFlagsAgree core56.flags { core56.flags with tf := true, idf := true } ∧
      core56.flags ≠ { core56.flags with tf := true, idf := true } := by
  unfold LiveFlagsAgree; decide

theorem witness_RegisterViews :
    0 < (Reg.hi8 .a).width.bits ∧ 7 < (Reg.hi8 .a).width.bits ∧ ¬ inView (.hi8 .a) .eax 7 ∧ ¬ inView (.hi8 .a) .eax 16 ∧
      ¬ inView (.hi8 .a) .ecx 8 ∧ inView (.hi8 .a) .eax 8 ∧ inView (.hi8 .a) .eax 15 := by
  unfold inView; decide

theorem witness_MemoryAccess :
    Memory.wf core56.mem = true ∧ core56.inBounds 0 Width.w32.bytes ∧ core56.inBounds 252 Width.w32.bytes ∧
      core56.inBounds 255 Width.w8.bytes ∧ ¬ core56.inBounds 253 Width.w32.bytes ∧ ¬ core56.inBounds (-1) Width.w8.bytes ∧
      ¬ core56.inBounds 256 Width.w8.bytes := by decide

theorem witness_Immediates :
    uimm? 8 0 = some 0 ∧ uimm? 8 255 = some 255 ∧ uimm? 8 256 = none ∧ uimm? 8 (-1) = none ∧ uimm? 16 0 = some 0 ∧
      uimm? 16 65535 = some 65535 ∧ uimm? 16 65536 = none := by decide

theorem witness_RegisterFrame :
    ∃ t, exec (.inc .w8 (.reg (.hi8 .a))) (withEax 0xFF12) = .next t ∧
      (∀ r ∈ regsWritten (.inc .w8 (.reg (.hi8 .a))), ¬ inView r .eax 7) ∧
      ∀ r ∈ regsWritten (.inc .w8 (.reg (.hi8 .a))), ¬ inView r .eax 16 := by
  refine ⟨_, rfl, ?_⟩
  unfold inView; decide

theorem witness_MemoryFrame :
    ∃ t, Memory.wf core56.mem = true ∧ exec (.mov .w32 (.imm 4) (.mem top)) core56 = .next t ∧
      (∀ p ∈ memWritten core56 (.mov .w32 (.imm 4) (.mem top)), ((0x7F : Nat) : Int) < p.1 ∨ p.1 + p.2 ≤ (0x7F : Nat)) ∧
      (∀ p ∈ memWritten core56 (.mov .w32 (.imm 4) (.mem top)), ((0x84 : Nat) : Int) < p.1 ∨ p.1 + p.2 ≤ (0x84 : Nat)) ∧
      memWritten core56 (.cmp .w32 (.imm 4) (.mem top)) = [] := ⟨_, by decide, rfl, by decide, by decide, rfl⟩

theorem witness_FlagFrame :
    ∃ t, exec (.inc .w32 (.reg (.r32 .eax))) core56 = .next t ∧
      FlagName.cf ∉ flagsWritten core56 (.inc .w32 (.reg (.r32 .eax))) ∧
      FlagName.df ∉ flagsWritten core56 (.inc .w32 (.reg (.r32 .eax))) := ⟨_, rfl, by decide, by decide⟩

theorem witness_AddResult :
    core56.Ready ∧ (Instr.add .w32 (.reg (.r32 .esp)) (.reg (.r32 .esp))).wellFormed core56.cfg = true ∧
      (Instr.add .w8 (.imm (-1)) (.mem (at_ 255))).wellFormed core56.cfg = true ∧
      core56.dstVal .w32 (.reg (.r32 .esp)) = .ok 0x80 ∧ core56.srcVal .w32 (.reg (.r32 .esp)) = .ok 0x80 ∧
      core56.dstVal .w8 (.mem (at_ 255)) = .ok 0 ∧ core56.srcVal .w8 (.imm (-1)) = .ok 255 := by
  unfold State.Ready; decide

theorem witness_AdcResult :
    core56.Ready ∧ (Instr.adc .w32 (.reg (.r32 .esp)) (.reg (.r32 .esp))).wellFormed core56.cfg = true ∧
      (Instr.adc .w8 (.imm (-1)) (.mem (at_ 255))).wellFormed core56.cfg = true ∧
      core56.dstVal .w32 (.reg (.r32 .esp)) = .ok 0x80 ∧ core56.srcVal .w32 (.reg (.r32 .esp)) = .ok 0x80 ∧
      core56.dstVal .w8 (.mem (at_ 255)) = .ok 0 ∧ core56.srcVal .w8 (.imm (-1)) = .ok 255 := by
  unfold State.Ready; decide

theorem witness_SubResult :
    core56.Ready ∧ (Instr.sub .w32 (.reg (.r32 .esp)) (.reg (.r32 .esp))).wellFormed core56.cfg = true ∧
      (Instr.sub .w8 (.imm (-1)) (.mem (at_ 255))).wellFormed core56.cfg = true ∧
      core56.dstVal .w32 (.reg (.r32 .esp)) = .ok 0x80 ∧ core56.srcVal .w32 (.reg (.r32 .esp)) = .ok 0x80 ∧
      core56.dstVal .w8 (.mem (at_ 255)) = .ok 0 ∧ core56.srcVal .w8 (.imm (-1)) = .ok 255 := by
  unfold State.Ready; decide

theorem witness_SbbResult :
    core56.Ready ∧ (Instr.sbb .w32 (.reg (.r32 .esp)) (.reg (.r32 .esp))).wellFormed core56.cfg = true ∧
      (Instr.sbb .w8 (.imm (-1)) (.mem (at_ 255))).wellFormed core56.cfg = true ∧
      core56.dstVal .w32 (.reg (.r32 .esp)) = .ok 0x80 ∧ core56.srcVal .w32 (.reg (.r32 .esp)) = .ok 0x80 ∧
      core56.dstVal .w8 (.mem (at_ 255)) = .ok 0 ∧ core56.srcVal .w8 (.imm (-1)) = .ok 255 := by
  unfold State.Ready; decide

theorem witness_CmpResult :
    core56.Ready ∧ (Instr.cmp .w32 (.reg (.r32 .esp)) (.reg (.r32 .esp))).wellFormed core56.cfg = true ∧
      (Instr.cmp .w8 (.imm (-1)) (.mem (at_ 255))).wellFormed core56.cfg = true ∧
      core56.dstVal .w32 (.reg (.r32 .esp)) = .ok 0x80 ∧ core56.srcVal .w32 (.reg (.r32 .esp)) = .ok 0x80 ∧
      core56.dstVal .w8 (.mem (at_ 255)) = .ok 0 ∧ core56.srcVal .w8 (.imm (-1)) = .ok 255 := by
  unfold State.Ready; decide

theorem witness_TestResult :
    core56.Ready ∧ (Instr.test .w32 (.reg (.r32 .esp)) (.reg (.r32 .esp))).wellFormed core56.cfg = true ∧
      (Instr.test .w8 (.imm (-1)) (.mem (at_ 255))).wellFormed core56.cfg = true ∧
      core56.dstVal .w32 (.reg (.r32 .esp)) = .ok 0x80 ∧ core56.srcVal .w32 (.reg (.r32 .esp)) = .ok 0x80 ∧
      core56.dstVal .w8 (.mem (at_ 255)) = .ok 0 ∧ core56.srcVal .w8 (.imm (-1)) = .ok 255 := by
  unfold State.Ready; decide

theorem witness_LogicResult :
    core56.Ready ∧ (∀ mk ∈ [Instr.and, .or, .xor], (mk .w16 (.imm 65535) (.mem (at_ 254))).wellFormed core56.cfg = true) ∧
      core56.dstVal .w16 (.mem (at_ 254)) = .ok 0 ∧ core56.srcVal .w16 (.imm 65535) = .ok 65535 := by
  unfold State.Ready; decide

theorem witness_IncDecResult :
    core56.Ready ∧ (Instr.inc .w8 (.mem (at_ 255))).wellFormed core56.cfg = true ∧ (Instr.dec .w8 (.mem (at_ 255))).wellFormed core56.cfg = true ∧
      core56.dstVal .w8 (.mem (at_ 255)) = .ok 0 := by
  unfold State.Ready; decide

theorem witness_NegResult :
    core56.Ready ∧ (Instr.neg .w8 (.mem (at_ 255))).wellFormed core56.cfg = true ∧
      core56.dstVal .w8 (.mem (at_ 255)) = .ok 0 := by
  unfold State.Ready; decide

theorem witness_NotResult :
    core56.Ready ∧ (Instr.not .w8 (.mem (at_ 255))).wellFormed core56.cfg = true ∧
      core56.dstVal .w8 (.mem (at_ 255)) = .ok 0 := by
  unfold State.Ready; decide

theorem witness_MulResult :
    core56.exit = false ∧ core56.srcVal .w32 (.imm (-1)) = .ok 0xFFFFFFFF := by decide

theorem witness_ImulResult :
    core56.exit = false ∧ core56.srcVal .w32 (.mem (at_ 252)) = .ok 0 := by decide

theorem witness_DivideResult :
    core56.exit = false ∧ core56.srcVal .w32 (.imm (-1)) = .ok 0xFFFFFFFF ∧ (0xFFFFFFFF#32).toNat ≠ 0 ∧
      (core56.cell .edx ++ core56.cell .eax).toNat / (0xFFFFFFFF#32).toNat < 2 ^ 32 ∧
      SignedFits 32 ((core56.cell .edx ++ core56.cell .eax).toInt.tdiv (0xFFFFFFFF#32).toInt) := by
  unfold SignedFits; decide

theorem witness_DivideErrors :
    core56.srcVal .w32 (.imm 0) = .ok 0 ∧ (0#32).toNat = 0 ∧
      (core56.setCell .edx 1).srcVal .w32 (.imm 1) = .ok 1 ∧ (1#32).toNat ≠ 0 ∧
      2 ^ 32 ≤ ((core56.setCell .edx 1).cell .edx ++ (core56.setCell .edx 1).cell .eax).toNat / (1#32).toNat ∧
      ¬ SignedFits 32 (((core56.setCell .edx 1).cell .edx ++ (core56.setCell .edx 1).cell .eax).toInt.tdiv (1#32).toInt) := by
  unfold SignedFits; decide

theorem witness_RotateResult :
    core56.Ready ∧ (∀ p ∈ rotateSpellings, (p.1 .w8 .cl (.mem (at_ 255))).wellFormed core56.cfg = true) ∧
      core56.dstVal .w8 (.mem (at_ 255)) = .ok 0 ∧ rotateTimes core56 .cl = 0 ∧ rotateTimes core56 .one = 1 ∧
      rotateTimes core56 (.imm 255) = 31 := by
  unfold State.Ready; decide

theorem witness_ShiftResult :
    core56.Ready ∧ (∀ p ∈ shiftSpellings, (p.1 .w8 .cl (.mem (at_ 255))).wellFormed core56.cfg = true) ∧
      core56.dstVal .w8 (.mem (at_ 255)) = .ok 0 ∧ shiftTimes core56 .cl = 0 ∧ shiftTimes core56 .one = 1 ∧
      shiftTimes core56 (.imm 255) = 31 := by
  unfold State.Ready; decide

theorem witness_ShiftClosedForms :
    4 ≤ Width.w8.bits ∧ (∀ k, Width.w8.bits - 4 ≤ k → (0x0F#8).getLsbD k = false) ∧ 0 < 4 := by
  refine ⟨by decide, fun k hk => ?_, by decide⟩
  rcases Nat.lt_or_ge k 8 with h | h
  · have all : ∀ k < 8, 4 ≤ k → (0x0F#8).getLsbD k = false := by decide
    exact all k h hk
  · exact BitVec.getLsbD_of_ge _ _ h

theorem witness_JumpResult :
    (atLabel Flags.clear).exit = false ∧ assoc ['l'] (atLabel Flags.clear).labels = some 7 := by decide

theorem witness_MissingLabel :
    (atLabel Flags.clear).Ready ∧ assoc ['m'] (atLabel Flags.clear).labels = none ∧
      (atLabel Flags.clear).cfg.labelMissPolicy = .halt ∧
      { core56 with cfg := { cfg56 with labelMissPolicy := .skip } }.Ready ∧
      assoc ['m'] { core56 with cfg := { cfg56 with labelMissPolicy := .skip } }.labels = none ∧
      { core56 with cfg := { cfg56 with labelMissPolicy := .skip } }.cfg.labelMissPolicy = .skip ∧
      { core56 with cfg := { cfg56 with labelMissPolicy := .skip } }.inBounds
        (pushSlot { core56 with cfg := { cfg56 with labelMissPolicy := .skip } }) 4 := by
  unfold State.Ready; decide

theorem witness_CmovResult :
    core56.Ready ∧ (∀ p ∈ cmovSpellings, (p.2 .w16 (.reg (.r16 .esp)) (.mem (at_ 254))).wellFormed core56.cfg = true) ∧
      core56.srcVal .w16 (.reg (.r16 .esp)) = .ok 0x80 ∧ DstReachable .w16 (.mem (at_ 254)) core56 ∧
      ∀ c ∈ cmovSpellings.map Prod.fst,
        (∃ f ∈ [zeroFlags, carryFlags, Flags.clear, { Flags.clear with sf := true }], condHolds f c = true) ∧
        ∃ f ∈ [zeroFlags, carryFlags, Flags.clear, { Flags.clear with sf := true }], condHolds f c = false := by
  refine ⟨⟨by decide, rfl⟩, by decide, by decide, ⟨by decide, by decide⟩, by decide⟩

theorem witness_SetResult :
    core56.Ready ∧ (∀ p ∈ setSpellings, (p.2 (.mem (at_ 255))).wellFormed core56.cfg = true) ∧
      DstReachable .w8 (.mem (at_ 255)) core56 ∧ DstReachable .w8 (.reg (.hi8 .b)) core56 := ⟨⟨by decide, rfl⟩, by decide, ⟨by decide, by decide⟩, trivial⟩

theorem witness_StringCompareResult :
    core56.exit = false ∧ (∀ p ∈ cmpsSpellings, core56.memRead (addrOf (core56.cell .esi)) p.1 = .ok 0) ∧
      ∀ p ∈ cmpsSpellings, core56.memRead (addrOf (core56.cell .edi)) p.1 = .ok 0 := by decide

theorem witness_StringMoveResult :
    core56.Ready ∧ (∀ p ∈ movsSpellings, core56.memRead (addrOf (core56.cell .esi)) p.1 = .ok 0) ∧
      ∀ p ∈ movsSpellings, core56.inBounds (addrOf (core56.cell .edi)) p.1.bytes := by
  unfold State.Ready; decide

theorem witness_MovResult :
    core56.Ready ∧ (Instr.mov .w32 (.imm (-1)) (.mem (at_ 252))).wellFormed core56.cfg = true ∧
      core56.srcVal .w32 (.imm (-1)) = .ok 0xFFFFFFFF ∧ DstReachable .w32 (.mem (at_ 252)) core56 ∧
      FlagName.df ∈ clearSet core56.cfg.clearScope ∧ core56.cfg.clearBeforeMov = true := ⟨⟨by decide, rfl⟩, by decide, by decide, ⟨by decide, by decide⟩, by decide, rfl⟩

theorem witness_PushPopResult :
    core56.Ready ∧ core56.srcVal .w32 (.mem top) = .ok 0 ∧ core56.srcVal .w32 (.reg (.r32 .esp)) = .ok 0x80 ∧
      core56.inBounds (pushSlot core56) 4 ∧ (Instr.pop (.mem top)).wellFormed core56.cfg = true ∧
      (Instr.pop (.reg (.r32 .esp))).wellFormed core56.cfg = true ∧ WordAt (addrOf (core56.cell .esp)) 0 core56 ∧
      DstReachable .w32 (.mem top) core56 ∧ DstReachable .w32 (.reg (.r32 .esp)) core56 := ⟨⟨by decide, rfl⟩, by decide, by decide, by decide, by decide, by decide, rfl, ⟨by decide, by decide⟩, trivial⟩

theorem witness_FlagTransfer :
    core56.Ready ∧ core56.inBounds (pushSlot core56) 4 ∧
      WordAt (addrOf (core56.cell .esp)) 0x400 (withWord 0x80 0x400 core56) ∧ (withWord 0x80 0x400 core56).Ready := ⟨⟨by decide, rfl⟩, by decide, rfl, by decide, rfl⟩

theorem witness_CallRetResult :
    (atLabel Flags.clear).Ready ∧ assoc ['l'] (atLabel Flags.clear).labels = some 7 ∧
      (atLabel Flags.clear).inBounds (pushSlot (atLabel Flags.clear)) 4 ∧
      WordAt (addrOf ((atLabel Flags.clear).cell .esp)) 0 (atLabel Flags.clear) := ⟨⟨by decide, rfl⟩, rfl, by decide, rfl⟩

theorem witness_EnterResult :
    core56.Ready ∧ enterLevel none = 0 ∧ enterLevel (some 32) = 0 ∧ (∀ k < 1, core56.inBounds (stackSlot core56 k) 4) ∧
      (core56.setCell .ebp 0x90).Ready ∧ enterLevel (some 3) = 3 ∧
      (∀ k < 4, (core56.setCell .ebp 0x90).inBounds (stackSlot (core56.setCell .ebp 0x90) k) 4) ∧
      (∀ i < 3, 1 ≤ i → (core56.setCell .ebp 0x90).inBounds (displaySlot (core56.setCell .ebp 0x90) i) 4) ∧
      (∀ i < 3, 1 ≤ i → WordAt (displaySlot (core56.setCell .ebp 0x90) i) 0 (core56.setCell .ebp 0x90)) ∧
      ∀ i < 3, 1 ≤ i → ∀ k < 4,
        displaySlot (core56.setCell .ebp 0x90) i + 4 ≤ stackSlot (core56.setCell .ebp 0x90) k ∨
          stackSlot (core56.setCell .ebp 0x90) k + 4 ≤ displaySlot (core56.setCell .ebp 0x90) i := by
  unfold State.Ready WordAt; decide

theorem witness_LeaveResult :
    core56.exit = false ∧ WordAt (addrOf (core56.cell .ebp)) 0 core56 := ⟨rfl, rfl⟩

theorem witness_NopAndExit :
    core56.exit = false := rfl

theorem witness_OutOfBoundsAccess_operands :
    (∀ mk ∈ binarySpellings, (mk .w32 (.imm 1) (.mem (at_ 253))).wellFormed core56.cfg = true ∧
        (mk .w32 (.mem (at_ (-1))) (.reg (.r32 .eax))).wellFormed core56.cfg = true) ∧
      ¬ core56.inBounds (core56.ea (at_ 253)) Width.w32.bytes ∧ ¬ core56.inBounds (core56.ea (at_ (-1))) Width.w32.bytes ∧
      ¬ core56.inBounds (core56.ea (at_ 256)) 1 ∧ ¬ core56.inBounds (core56.ea (at_ 253)) 4 ∧
      core56.inBounds (addrOf (core56.cell .esp)) 4 := by decide

theorem witness_OutOfBoundsAccess_stack :
    (∀ s ∈ [core56.setCell .esp 0, core56.setCell .esp 0x101], ¬ s.inBounds (pushSlot s) 4) ∧
      (∀ s ∈ [core56.setCell .esp 0xFD, core56.setCell .esp 0xFFFFFFFF], ¬ s.inBounds (addrOf (s.cell .esp)) 4) ∧
      (core56.setCell .esp 0).srcVal .w32 (.imm 1) = .ok 1 ∧
      assoc ['l'] ((atLabel Flags.clear).setCell .esp 0).labels ≠ none ∧
      ¬ ((atLabel Flags.clear).setCell .esp 0).inBounds (pushSlot ((atLabel Flags.clear).setCell .esp 0)) 4 ∧
      ¬ (core56.setCell .ebp 0xFD).inBounds (addrOf ((core56.setCell .ebp 0xFD).cell .ebp)) 4 := by decide

theorem witness_OutOfBoundsAccess_strings :
    (∀ p ∈ cmpsSpellings ++ movsSpellings,
        ¬ (core56.setCell .esi 0x100).inBounds (addrOf ((core56.setCell .esi 0x100).cell .esi)) p.1.bytes ∧
        (core56.setCell .edi 0x100).inBounds (addrOf ((core56.setCell .edi 0x100).cell .esi)) p.1.bytes ∧
        ¬ (core56.setCell .edi 0x100).inBounds (addrOf ((core56.setCell .edi 0x100).cell .edi)) p.1.bytes) ∧
      (∀ p ∈ scasSpellings ++ stosSpellings,
        ¬ (core56.setCell .edi 0x100).inBounds (addrOf ((core56.setCell .edi 0x100).cell .edi)) p.1.bytes) ∧
      ∀ p ∈ lodsSpellings, ¬ (core56.setCell .esi 0x100).inBounds (addrOf ((core56.setCell .esi 0x100).cell .esi)) p.1.bytes := by decide

end Sys2Proof.Tests
end

section
/-! The flag word and the register views (10_state.md rules R35, R36, R40 to R43). -/

namespace Sys2Proof.Machine

/-! ## The packed flag word (R42, R43) -/

/-- Flag bits at rising positions do not carry into each other, so a bit of their sum is a flag's bit. -/
theorem testBit_sum_flagBits (l : List (Bool × Nat)) (n k : Nat) (hl : l.Pairwise fun p q => p.2 < q.2)
    (hn : ∀ p ∈ l, n < 2 ^ p.2) :
    (l.foldl (fun a p => a + flagBit p.1 p.2) n).testBit k = (n.testBit k || l.any fun p => p.1 && decide (p.2 = k)) := by
  induction l generalizing n with
  | nil => simp
  | cons p l ih =>
    obtain ⟨hp, hl⟩ := List.pairwise_cons.mp hl
    have hnp : n < 2 ^ p.2 := hn p (by simp)
    rw [List.foldl_cons, ih _ hl fun q hq => add_flagBit_lt hnp (hp q hq), testBit_add_flagBit k hnp, List.any_cons,
      Bool.or_assoc]

/-- The bits of the packed word: bit 1, and each flag at its position. -/
def packBits (f : Flags) : List (Bool × Nat) :=
  [(f.cf, 0), (true, 1), (f.pf, 2), (f.af, 4), (f.zf, 6), (f.sf, 7), (f.tf, 8), (f.ifl, 9), (f.df, 10), (f.ovf, 11),
    (f.nt, 14), (f.rf, 16), (f.vm, 17), (f.ac, 18), (f.vif, 19), (f.vip, 20), (f.idf, 21)]

theorem sum_packBits (f : Flags) (g : Bool → Nat → Nat) :
    (packBits f).foldl (fun a p => a + g p.1 p.2) 0 =
      0 + g f.cf 0 + g true 1 + g f.pf 2 + g f.af 4 + g f.zf 6 + g f.sf 7 + g f.tf 8 + g f.ifl 9 + g f.df 10 + g f.ovf 11 +
        g f.nt 14 + g f.rf 16 + g f.vm 17 + g f.ac 18 + g f.vif 19 + g f.vip 20 + g f.idf 21 := rfl

theorem pack_eq_sum_packBits (f : Flags) :
    f.pack = BitVec.ofNat 32 ((packBits f).foldl (fun a p => a + flagBit p.1 p.2) 0) := by
  have hone : flagBit true 1 = 2 := rfl
  rw [sum_packBits, hone, Nat.zero_add, Nat.add_comm _ 2, Flags.pack]

theorem any_packBits (f : Flags) (k : Nat) : ((packBits f).any fun p => p.1 && decide (p.2 = k)) = packedBit f k := by
  have hone : (k == 1) = decide (1 = k) := by rw [beq_eq_decide, decide_eq_decide, eq_comm]
  simp only [packBits, packedBit, FlagName.all, List.any_cons, List.any_nil, FlagName.pos, Flags.get, hone, beq_eq_decide,
    Bool.and_comm]
  exact Bool.or_left_comm ..

theorem pack_getLsbD (f : Flags) {k : Nat} (hk : k < 32) : f.pack.getLsbD k = packedBit f k := by
  have hrise : (packBits f).Pairwise fun p q => p.2 < q.2 := by simp [packBits]
  rw [pack_eq_sum_packBits, BitVec.getLsbD_ofNat, testBit_sum_flagBits _ _ _ hrise fun _ _ => by positivity, any_packBits]
  simp [hk]

theorem unpack_get (u : Word) (n : FlagName) : (Flags.unpack u).get n = u.getLsbD n.pos := by cases n <;> rfl

/-- Two flag registers with the same flags are equal. -/
theorem Flags.ext_get {f g : Flags} (h : ∀ n, f.get n = g.get n) : f = g := by
  cases f
  cases g
  congr 1
  exacts [h .cf, h .pf, h .af, h .zf, h .sf, h .tf, h .ifl, h .df, h .ovf, h .nt, h .rf, h .vm, h .ac, h .vif, h .vip, h .idf]

theorem packedBit_pos (f : Flags) (n : FlagName) : packedBit f n.pos = f.get n := by
  cases n <;> simp [packedBit, FlagName.all, FlagName.pos]

theorem FlagName.pos_lt (n : FlagName) : n.pos < 32 := by cases n <;> decide

theorem unpack_pack (f : Flags) : Flags.unpack f.pack = f :=
  Flags.ext_get fun n => by rw [unpack_get, pack_getLsbD f n.pos_lt, packedBit_pos]

/-- The packed bits of an unpacked word are the word's, at the positions of the flags. -/
theorem packedBit_unpack (u : Word) (k : Nat) :
    packedBit (Flags.unpack u) k = (k == 1 || (FlagName.all.any fun n => n.pos == k) && u.getLsbD k) := by
  have h : ∀ n : FlagName, (n.pos == k && u.getLsbD n.pos) = (n.pos == k && u.getLsbD k) := by
    intro n
    by_cases hn : n.pos = k
    · rw [hn]
    · rw [beq_false_of_ne hn, Bool.false_and, Bool.false_and]
  simp only [packedBit, List.and_any_distrib_right, unpack_get, h]

/-- The mask of R43 is 1 exactly at the positions of the flags. -/
theorem flagMask_getLsbD : ∀ k < 32,
    (FlagName.all.any fun n => n.pos == k) = (0x003F4FD5#32).getLsbD k ∧ (k == 1) = (2#32).getLsbD k := by decide

theorem pack_unpack (u : Word) : (Flags.unpack u).pack = (u &&& 0x003F4FD5#32) ||| 2#32 := by
  apply BitVec.eq_of_getLsbD_eq
  intro k hk
  obtain ⟨hmask, hone⟩ := flagMask_getLsbD k hk
  rw [pack_getLsbD _ hk, packedBit_unpack, hmask, hone, BitVec.getLsbD_or, BitVec.getLsbD_and, Bool.or_comm, Bool.and_comm]

theorem pack_clear : Flags.clear.pack = 0x00000002#32 := by decide

/-- Settles O17. -/
theorem packUnpack : Obligations.PackUnpack :=
  ⟨fun f => ⟨fun _ => pack_getLsbD f, unpack_pack f⟩, pack_clear, fun u => ⟨unpack_get u, pack_unpack u⟩⟩

/-! ## Register views (R35, R36) -/

/-- Settles O18: read after write, and the bits of the cell a view reads and leaves. -/
theorem registerViews : Obligations.RegisterViews := by
  intro s r v
  refine ⟨fun i hi => readReg_getLsbD s r hi, fun i hi => ?_, fun c i h => writeReg_outside s r v h⟩
  rw [← readReg_getLsbD _ r hi, readReg_writeReg]

end Sys2Proof.Machine
end

section
/-! The run as a whole: the invariant, the program, the exit flag, the halted state and the initial state (10_state.md sections 3
and 4, 40_execution.md rules R160 to R164). -/

namespace Sys2Proof.Machine

/-! ## The invariant of a run -/

/-- A state that has not halted has no exit requested. -/
theorem State.Inv.exit_false {s : State} (h : s.Inv) (hs : s.status ≠ .halted .exit) : s.exit = false :=
  Bool.eq_false_iff.mpr fun he => hs (h.exitHalts.mp he)

theorem State.Inv.resolve {s : State} (h : s.Inv) (hs : s.status = .resolving) : s.resolve.Inv where
  memCanonical := h.memCanonical
  memInside := h.memInside
  resolved _ := rfl
  exitHalts := by simp [State.resolve, h.exit_false (by simp [hs])]
  endPc hh := by cases hh
  errorPc e hh := by cases hh

theorem State.Inv.endOfStream {s : State} (h : s.Inv) (hs : s.status = .running) (hpc : s.stream.length ≤ s.pc) :
    s.endOfStream.Inv where
  memCanonical := h.memCanonical
  memInside := h.memInside
  resolved _ := h.resolved (by simp [hs])
  exitHalts := by simp [State.endOfStream, h.exit_false (by simp [hs])]
  endPc _ := hpc
  errorPc e hh := by cases hh

theorem State.Inv.raise {s : State} (h : s.Inv) (hs : s.status = .running) (hpc : s.pc < s.stream.length) (e : ErrorKind) :
    (s.raise e).Inv where
  memCanonical := h.memCanonical
  memInside := h.memInside
  resolved _ := h.resolved (by simp [hs])
  exitHalts := by simp [h.exit_false (by simp [hs])]
  endPc hh := by cases hh
  errorPc _ _ := hpc

/-- An instruction that ran from a running state leaves a running state. -/
theorem State.Inv.keeps {s t : State} (h : s.Inv) (hs : s.status = .running) (hk : Keeps s t) : t.Inv where
  memCanonical := hk.memCanonical h.memCanonical
  memInside := by simpa [hk.cfg] using hk.memInside h.memInside
  resolved _ := by
    rw [hk.stream, hk.labels, hk.program]
    exact h.resolved (by simp [hs])
  exitHalts := by simp [hk.exit, hk.status, hs, h.exit_false]
  endPc hh := by simp [hk.status, hs] at hh
  errorPc e hh := by simp [hk.status, hs] at hh

theorem State.Inv.hlt {s t : State} (h : s.Inv) (hs : s.status = .running) (ht : exec .hlt s = .next t) : t.Inv := by
  rw [exec_hlt] at ht
  cases ht
  exact
    { memCanonical := h.memCanonical
      memInside := h.memInside
      resolved := fun _ => h.resolved (by simp [hs])
      exitHalts := iff_of_true rfl rfl
      endPc := fun hh => by cases hh
      errorPc := fun e hh => by cases hh }

/-- Settles O9: each way a step can end keeps the invariant. -/
theorem stepKeepsInv : Obligations.StepKeepsInv := by
  intro s t h ht
  obtain ⟨hs, rfl⟩ | ⟨hs, hpc, rfl⟩ | ⟨hs, hpc, hline⟩ := step_cases ht
  · exact h.resolve hs
  · exact h.endOfStream hs hpc
  · obtain rfl | ⟨e, rfl⟩ | ⟨_, _, _, ht⟩ | ⟨u, rfl, hk⟩ := hline
    · exact h.keeps hs (Keeps.refl s).advance
    · exact h.raise hs hpc e
    · exact h.hlt hs ht
    · rw [retire_of_running (hk.exit.trans (h.exit_false (by simp [hs])))]
      exact h.keeps hs hk

/-- Settles O10: the initial state has requested no exit and has not halted. -/
theorem invInitially : Obligations.InvInitially := by
  have initial : ∀ cfg gpr mem program, Memory.wf mem = true → Memory.within cfg.memSize mem = true →
      (State.initial cfg gpr mem program).Inv := fun cfg gpr mem program hwf hin =>
    { memCanonical := hwf
      memInside := hin
      resolved := fun hs => absurd rfl hs
      exitHalts := by simp [State.initial]
      endPc := fun hh => by cases hh
      errorPc := fun e hh => by cases hh }
  exact ⟨initial, initial _ _ _ _ rfl rfl, fun s h hs => ⟨h.memCanonical, h.exit_false (by simp [hs])⟩⟩

/-! ## The program and the exit flag -/

/-- The program, the stream, the labels and the parameters are kept by everything a line can do. -/
theorem Keeps.programKept {s t : State} (h : Keeps s t) : ProgramKept s t := ⟨h.program, h.stream, h.labels, h.cfg⟩

theorem ProgramKept.retire {s t : State} (h : ProgramKept s t) : ProgramKept s t.retire := by
  simpa [ProgramKept] using h

/-- A running core keeps its program, stream, labels and parameters. -/
theorem step_programKept {s t : State} (hs : s.status ≠ .resolving) (ht : step s = .next t) : ProgramKept s t := by
  obtain ⟨h, -⟩ | ⟨-, -, rfl⟩ | ⟨-, -, rfl | ⟨e, rfl⟩ | ⟨_, _, _, ht⟩ | ⟨u, rfl, hk⟩⟩ := step_cases ht
  · exact absurd h hs
  · exact ⟨rfl, rfl, rfl, rfl⟩
  · exact ⟨rfl, rfl, rfl, rfl⟩
  · exact ⟨rfl, rfl, rfl, rfl⟩
  · cases ht
    exact ⟨rfl, rfl, rfl, rfl⟩
  · exact hk.programKept.retire

/-- Settles O11: only the resolving pass writes the stream and the labels, and it keeps the rest. -/
theorem programIsReadOnly : Obligations.ProgramIsReadOnly := by
  intro s t ht
  by_cases hs : s.status = .resolving
  · simp only [step, hs] at ht
    cases ht
    exact ⟨rfl, rfl, fun h => absurd hs h⟩
  · obtain ⟨hprogram, hstream, hlabels, hcfg⟩ := step_programKept hs ht
    exact ⟨hprogram, hcfg, fun _ => ⟨hstream, hlabels⟩⟩

/-- A step leaves the exit flag as it was, but for the exit instruction, which sets it. -/
theorem step_exit {s t : State} (ht : step s = .next t) :
    t.exit = s.exit ∨
      t.exit = true ∧ ∃ r, s.status = .running ∧ s.stream[s.pc]? = some (.instr r) ∧ decode s.cfg r = .ok .hlt := by
  obtain ⟨-, rfl⟩ | ⟨-, -, rfl⟩ | ⟨hs, -, rfl | ⟨e, rfl⟩ | ⟨r, hr, hd, ht⟩ | ⟨u, rfl, hk⟩⟩ := step_cases ht
  · exact .inl rfl
  · exact .inl rfl
  · exact .inl rfl
  · exact .inl rfl
  · cases ht
    exact .inr ⟨rfl, r, hs, hr, hd⟩
  · exact .inl (by simpa using hk.exit)

/-- Settles O13. -/
theorem exitFlag : Obligations.ExitFlag := by
  intro s t ht
  rcases step_exit ht with h | ⟨h, hline⟩
  · exact ⟨fun hs => h.trans hs, fun hs hset => by simp [h, hs] at hset⟩
  · exact ⟨fun _ => h, fun _ _ => hline⟩

/-! ## The ends of a run -/

/-- Settles O7. -/
theorem haltedIsFinal : Obligations.HaltedIsFinal := by
  intro s r hs
  simp only [step, hs]

/-- Settles O15. -/
theorem initialState : Obligations.InitialState :=
  ⟨fun _ _ _ _ => ⟨rfl, fun n => by cases n <;> rfl, pack_clear, rfl, rfl, rfl, rfl, rfl⟩, _, _, _, _, rfl⟩

end Sys2Proof.Machine
end

section
/-! The frame of every instruction: the register bits and the flags it may change, and where it leaves the pc (10_state.md rules R36,
R37, R45, R51; 40_execution.md rules R162, R170, R173). The body of every instruction is followed once, in `exec_runsWithin`. -/

namespace Sys2Proof.Machine

/-! ## What an instruction body may change -/

/-- From `s` to `t` only bits of the views `rs` and the flags `ns` have changed, and the pc has not. -/
structure Changes (rs : List Reg) (ns : List FlagName) (s t : State) : Prop where
  bits : ∀ c k, (∀ r ∈ rs, ¬ inView r c k) → (t.cell c).getLsbD k = (s.cell c).getLsbD k
  flags : ∀ n ∉ ns, t.flags.get n = s.flags.get n
  pc : t.pc = s.pc

section

variable {rs : List Reg} {ns : List FlagName} {s t u : State}

theorem Changes.refl (rs : List Reg) (ns : List FlagName) (s : State) : Changes rs ns s s :=
  ⟨fun _ _ _ => rfl, fun _ _ => rfl, rfl⟩

theorem Changes.withFlags (h : Changes rs ns s t) {f : Flags} (hf : ∀ n ∉ ns, f.get n = s.flags.get n) :
    Changes rs ns s (t.withFlags f) :=
  ⟨h.bits, hf, h.pc⟩

/-- A part of the state that is no register, flag or pc. -/
theorem Changes.of_fields (h : Changes rs ns s t) (hcells : u.cells = t.cells) (hflags : u.flags = t.flags) (hpc : u.pc = t.pc) :
    Changes rs ns s u where
  bits c k hk := by simpa [State.cell, hcells] using h.bits c k hk
  flags n hn := hflags ▸ h.flags n hn
  pc := hpc.trans h.pc

theorem Changes.drew (h : Changes rs ns s t) (k : Nat) : Changes rs ns s (t.drew k) := h.of_fields rfl rfl rfl

theorem Changes.withExit (h : Changes rs ns s t) (b : Bool) : Changes rs ns s (t.withExit b) := h.of_fields rfl rfl rfl

theorem Changes.chose (h : Changes rs ns s t) (p : AliasPolicy) : Changes rs ns s (t.chose p) :=
  h.of_fields (by simp) (by simp) (by simp)

theorem Changes.memWrite (h : Changes rs ns s t) {a : Int} {w : Width} {v : BitVec w.bits} (hw : t.memWrite a w v = .ok u) :
    Changes rs ns s u := by
  obtain ⟨-, rfl⟩ := State.memWrite_ok hw
  exact h.of_fields rfl rfl rfl

theorem Changes.writeReg (h : Changes rs ns s t) {r : Reg} (hr : r ∈ rs) (v : BitVec r.width.bits) :
    Changes rs ns s (t.writeReg r v) where
  bits c k hk := (writeReg_outside t r v (hk r hr)).trans (h.bits c k hk)
  flags := h.flags
  pc := h.pc

theorem Changes.setCell (h : Changes rs ns s t) {c : Cell} (hc : .r32 c ∈ rs) (v : Word) : Changes rs ns s (t.setCell c v) :=
  h.writeReg hc v

theorem Changes.writeDst (h : Changes rs ns s t) {s0 : State} {w : Width} {dst : Dst} {v : BitVec w.bits}
    (hdst : dstRegs dst ⊆ rs) (hw : s0.writeDst w dst v t = .ok u) : Changes rs ns s u := by
  cases dst with
  | reg r =>
    cases hw
    exact h.writeReg (hdst (List.mem_singleton.mpr rfl)) _
  | mem m => exact h.memWrite hw

theorem Changes.push32 (h : Changes rs ns s t) (hesp : .r32 .esp ∈ rs) {v : Word} (hp : t.push32 v = .ok u) :
    Changes rs ns s u := by
  obtain ⟨x, hx, rfl⟩ := map_eq_ok.mp hp
  exact (h.memWrite hx).setCell hesp _

theorem Changes.pop32 (h : Changes rs ns s t) (hesp : .r32 .esp ∈ rs) {p : Word × State} (hp : t.pop32 = .ok p) :
    Changes rs ns s p.2 := by
  obtain ⟨v, -, rfl⟩ := map_eq_ok.mp hp
  exact h.setCell hesp _

theorem Changes.advancePtr (h : Changes rs ns s t) {c : Cell} (hc : .r32 c ∈ rs) (w : Width) :
    Changes rs ns s (advancePtr c w t) :=
  h.setCell hc _

theorem Changes.setEaxEdx (h : Changes rs ns s t) (heax : .r32 .eax ∈ rs) (hedx : .r32 .edx ∈ rs) (a d : Word) :
    Changes rs ns s (setEaxEdx a d t) :=
  (h.setCell heax a).setCell hedx d

theorem Changes.choseAlias (src : Src) (dst : Dst) (s : State) : Changes rs ns s (choseAlias src dst s) := by
  unfold Machine.choseAlias
  split
  · exact (Changes.refl rs ns s).chose _
  · exact .refl rs ns s

theorem Changes.enterPush {v : Word} {p q : State × Word} (h : Changes rs ns s p.1) (hq : enterPush v p = .ok q) :
    Changes rs ns s q.1 := by
  obtain ⟨u, hu, rfl⟩ := map_eq_ok.mp hq
  exact h.memWrite hu

theorem Changes.enterCopies {n : Nat} {e : Word} {p q : State × Word} (h : Changes rs ns s p.1)
    (hq : enterCopies n e p = .ok q) : Changes rs ns s q.1 := by
  induction n generalizing e p with
  | zero => cases hq; exact h
  | succ n ih =>
    obtain ⟨v, -, hq⟩ := bind_eq_ok.mp hq
    obtain ⟨u, hu, hq⟩ := bind_eq_ok.mp hq
    exact ih (h.enterPush hu) hq

theorem Changes.enterDisplay {l : Nat} {e frame : Word} {p q : State × Word} (h : Changes rs ns s p.1)
    (hq : enterDisplay l e frame p = .ok q) : Changes rs ns s q.1 := by
  cases l with
  | zero => cases hq; exact h
  | succ n =>
    obtain ⟨u, hu, hq⟩ := bind_eq_ok.mp hq
    exact (h.enterCopies hu).enterPush hq

end

/-! ## The flags an operation writes (R45) -/

/-- Replacing the status flags changes no other flag. -/
theorem get_of_not_status (f : Flags) (cf pf af zf sf ovf : Bool) (n : FlagName) (hn : n ∉ statusFlags) :
    ({ f with cf := cf, pf := pf, af := af, zf := zf, sf := sf, ovf := ovf } : Flags).get n = f.get n := by
  cases n <;> simp_all [statusFlags, Flags.get]

theorem get_ofAlu {m : Nat} (f : Flags) (a : Alu m) (n : FlagName) (hn : n ∉ statusFlags) : (f.ofAlu a).get n = f.get n :=
  get_of_not_status f _ _ _ _ _ _ n hn

theorem get_ofAluKeepCf {m : Nat} (f : Flags) (a : Alu m) (n : FlagName) (hn : n ∉ [FlagName.pf, .af, .zf, .sf, .ovf]) :
    (f.ofAluKeepCf a).get n = f.get n := by
  by_cases hcf : n = .cf
  · rw [hcf]; rfl
  · exact get_of_not_status f _ _ _ _ _ _ n (by simp_all [statusFlags])

theorem get_clearScope (f : Flags) (scope : ClearScope) (n : FlagName) (hn : n ∉ clearSet scope) :
    (f.clearScope scope).get n = f.get n := by
  cases scope with
  | all16 => cases n <;> simp [clearSet, FlagName.all] at hn
  | status6 => exact get_of_not_status f _ _ _ _ _ _ n hn

theorem get_logic {m : Nat} (f : Flags) (scope : ClearScope) (r : BitVec m) (n : FlagName) (hn : n ∉ clearSet scope) :
    (f.logic scope r).get n = f.get n := by
  have hstatus : n ∉ statusFlags := by
    cases scope with
    | all16 => cases n <;> simp [clearSet, FlagName.all] at hn
    | status6 => exact hn
  exact (get_of_not_status (f.clearScope scope) _ _ _ _ _ _ n hstatus).trans (get_clearScope f scope n hn)

theorem get_movFlags (s : State) (n : FlagName) (hn : n ∉ if s.cfg.clearBeforeMov then clearSet s.cfg.clearScope else []) :
    (movFlags s).get n = s.flags.get n := by
  unfold movFlags
  split
  · exact get_clearScope _ _ n (by simp_all)
  · rfl

theorem get_unpackLow (f : Flags) (b : Byte) (n : FlagName) (hn : n ∉ [FlagName.cf, .pf, .af, .zf, .sf]) :
    (f.unpackLow b).get n = f.get n := by
  cases n <;> simp_all [Flags.unpackLow, Flags.get]

/-- A rotate by 0 keeps the carry it starts from, and so every flag. -/
theorem Changes.rotateState {rs : List Reg} (s : State) {n : Nat} {cf : Bool} (formula : Bool) (hcf : n = 0 → cf = s.flags.cf) :
    Changes rs (if n = 0 then [] else [.cf, .ovf]) s (rotateState s n cf formula) := by
  refine ((Changes.refl rs _ s).withFlags fun m hm => ?_).drew _
  by_cases hn : n = 0
  · rw [hcf hn, overflowAfter, if_pos hn]
  · rw [if_neg hn] at hm
    cases m <;> simp_all [Flags.get]

theorem Changes.shiftState {rs : List Reg} (s : State) (n : Nat) (cf formula : Bool) :
    Changes rs (if n = 0 then [] else statusFlags) s (shiftState s n cf formula) := by
  refine ((Changes.refl rs _ s).withFlags fun m hm => ?_).drew _
  unfold shiftFlags
  split
  · rfl
  · exact get_of_not_status _ _ _ _ _ _ _ m (by simp_all)

/-! ## The instruction shapes -/

/-- An instruction that begins in `s` and completes has changed only `rs` and `ns`, and has then left the pc: at the next line, unless
it is one that jumps. -/
def RunsWithin (jumps : Bool) (rs : List Reg) (ns : List FlagName) (s : State) (r : Result) : Prop :=
  ∃ body, r = complete s body ∧
    ∀ t, body = .ok t → ∃ u k, t = u.withPc k ∧ Changes rs ns s u ∧ (jumps = false → k = s.pc + 1)

section

variable {jumps : Bool} {rs : List Reg} {ns : List FlagName} {s : State}

/-- A body that advances the pc. -/
theorem RunsWithin.of_advance {body : Except ErrorKind State} (h : ∀ t, body = .ok t → ∃ u, u.advance = t ∧ Changes rs ns s u) :
    RunsWithin jumps rs ns s (complete s body) :=
  ⟨body, rfl, fun t ht => by
    obtain ⟨u, rfl, hu⟩ := h t ht
    exact ⟨u, u.pc + 1, rfl, hu, fun _ => by rw [hu.pc]⟩⟩

/-- A body that puts the pc where it likes. -/
theorem RunsWithin.of_jump {body : Except ErrorKind State}
    (h : ∀ t, body = .ok t → ∃ u k, u.withPc k = t ∧ Changes rs ns s u) : RunsWithin true rs ns s (complete s body) :=
  ⟨body, rfl, fun t ht => by
    obtain ⟨u, k, rfl, hu⟩ := h t ht
    exact ⟨u, k, rfl, hu, fun hj => by cases hj⟩⟩

theorem binaryOp_within {w : Width} {src : Src} {dst : Dst} {f : BitVec w.bits → BitVec w.bits → BitVec w.bits × State}
    (hdst : dstRegs dst ⊆ rs) (h : ∀ d x, Changes rs ns s (f d x).2) : RunsWithin jumps rs ns s (binaryOp w src dst f s) := by
  refine .of_advance fun t ht => ?_
  obtain ⟨d, -, ht⟩ := bind_eq_ok.mp ht
  obtain ⟨x, -, ht⟩ := bind_eq_ok.mp ht
  obtain ⟨u, hu, ht⟩ := bind_eq_ok.mp ht
  exact ⟨u, Except.ok.inj ht, (h d x).writeDst hdst hu⟩

theorem compareOp_within {w : Width} {src : Src} {dst : Dst} {f : BitVec w.bits → BitVec w.bits → State}
    (h : ∀ d x, Changes rs ns s (f d x)) : RunsWithin jumps rs ns s (compareOp w src dst f s) := by
  refine .of_advance fun t ht => ?_
  obtain ⟨d, -, ht⟩ := bind_eq_ok.mp ht
  obtain ⟨x, -, ht⟩ := bind_eq_ok.mp ht
  exact ⟨_, Except.ok.inj ht, h d x⟩

theorem unaryOp_within {w : Width} {dst : Dst} {f : BitVec w.bits → BitVec w.bits × State} (hdst : dstRegs dst ⊆ rs)
    (h : ∀ d, Changes rs ns s (f d).2) : RunsWithin jumps rs ns s (unaryOp w dst f s) := by
  refine .of_advance fun t ht => ?_
  obtain ⟨d, -, ht⟩ := bind_eq_ok.mp ht
  obtain ⟨u, hu, ht⟩ := bind_eq_ok.mp ht
  exact ⟨u, Except.ok.inj ht, (h d).writeDst hdst hu⟩

theorem sourceOp_within {src : Src} {f : Word → Except ErrorKind State} (h : ∀ x t, f x = .ok t → Changes rs ns s t) :
    RunsWithin jumps rs ns s (sourceOp src f s) := by
  refine .of_advance fun t ht => ?_
  obtain ⟨x, -, ht⟩ := bind_eq_ok.mp ht
  obtain ⟨u, hu, ht⟩ := bind_eq_ok.mp ht
  exact ⟨u, Except.ok.inj ht, h x u hu⟩

theorem plainOp_within {r : Except ErrorKind State} (h : ∀ t, r = .ok t → Changes rs ns s t) :
    RunsWithin jumps rs ns s (plainOp r s) :=
  .of_advance fun t ht => by
    obtain ⟨u, hu, ht⟩ := map_eq_ok.mp ht
    exact ⟨u, ht, h u hu⟩

theorem plainOp_ok_within {t : State} (h : Changes rs ns s t) : RunsWithin jumps rs ns s (plainOp (.ok t) s) :=
  plainOp_within fun u hu => by cases hu; exact h

/-! ## The families -/

theorem rotateOp_within {w : Width} {count : Count} {dst : Dst} {step : BitVec w.bits × Bool → BitVec w.bits × Bool}
    {formula : BitVec w.bits → Bool → Bool} :
    RunsWithin jumps (dstRegs dst) (if rotateTimes s count = 0 then [] else [.cf, .ovf]) s
      (rotateOp w count dst step formula s) := by
  rw [← rotateCount_eq]
  exact unaryOp_within (List.Subset.refl _) fun d => Changes.rotateState s _ fun hn => by rw [hn]; rfl

theorem shiftOp_within {w : Width} {count : Count} {dst : Dst}
    {step : BitVec w.bits → BitVec w.bits × Bool → BitVec w.bits × Bool}
    {formula : BitVec w.bits → BitVec w.bits → Bool → Bool} :
    RunsWithin jumps (dstRegs dst) (if shiftTimes s count = 0 then [] else statusFlags) s
      (shiftOp w count dst step formula s) := by
  rw [← shiftCount_eq]
  exact unaryOp_within (List.Subset.refl _) fun d => Changes.shiftState s _ _ _

theorem withTarget_within {target : Text} {found : Nat → State} (h : ∀ k, ∃ u k', u.withPc k' = found k ∧ Changes rs ns s u) :
    RunsWithin true rs ns s (withTarget target s found) := by
  unfold withTarget
  split
  · exact .of_jump fun t ht => by cases ht; exact h _
  · split
    · exact .of_jump fun t ht => by cases ht
    · exact .of_jump fun t ht => by cases ht; exact ⟨s, s.pc + 1, rfl, .refl rs ns s⟩

theorem jumpIf_within {c : Cond} {target : Text} : RunsWithin true rs ns s (jumpIf c target s) :=
  withTarget_within fun k => by
    split
    · exact ⟨s, k, rfl, .refl rs ns s⟩
    · exact ⟨s, s.pc + 1, rfl, .refl rs ns s⟩

theorem cmovIf_within {c : Cond} {w : Width} {src : Src} {dst : Dst} :
    RunsWithin jumps (dstRegs dst) ns s (cmovIf c w src dst s) := by
  refine .of_advance fun t ht => ?_
  obtain ⟨x, -, ht⟩ := bind_eq_ok.mp ht
  obtain ⟨_, -, ht⟩ := bind_eq_ok.mp ht
  obtain ⟨u, hu, ht⟩ := map_eq_ok.mp ht
  refine ⟨u, ht, ?_⟩
  split at hu
  · exact (Changes.refl _ ns s).writeDst (List.Subset.refl _) hu
  · cases hu
    exact .refl _ ns s

theorem setIf_within {c : Cond} {dst : Dst} : RunsWithin jumps (dstRegs dst) ns s (setIf c dst s) := by
  refine .of_advance fun t ht => ?_
  obtain ⟨u, hu, ht⟩ := bind_eq_ok.mp ht
  exact ⟨u, Except.ok.inj ht, (Changes.refl _ ns s).writeDst (List.Subset.refl _) hu⟩

theorem cmpsOp_within {w : Width} : RunsWithin jumps [.r32 .esi, .r32 .edi] statusFlags s (cmpsOp w s) := by
  refine .of_advance fun t ht => ?_
  obtain ⟨a, -, ht⟩ := bind_eq_ok.mp ht
  obtain ⟨b, -, ht⟩ := bind_eq_ok.mp ht
  refine ⟨_, Except.ok.inj ht, ?_⟩
  exact (((Changes.refl _ _ s).withFlags (get_ofAlu _ _)).advancePtr (by simp) w).advancePtr (by simp) w

theorem movsOp_within {w : Width} : RunsWithin jumps [.r32 .esi, .r32 .edi] ns s (movsOp w s) := by
  refine .of_advance fun t ht => ?_
  obtain ⟨v, -, ht⟩ := bind_eq_ok.mp ht
  obtain ⟨u, hu, ht⟩ := bind_eq_ok.mp ht
  exact ⟨_, Except.ok.inj ht, (((Changes.refl _ ns s).memWrite hu).advancePtr (by simp) w).advancePtr (by simp) w⟩

theorem scasOp_within {w : Width} : RunsWithin jumps [.r32 .edi] statusFlags s (scasOp w s) := by
  refine .of_advance fun t ht => ?_
  obtain ⟨b, -, ht⟩ := bind_eq_ok.mp ht
  exact ⟨_, Except.ok.inj ht, ((Changes.refl _ _ s).withFlags (get_ofAlu _ _)).advancePtr (by simp) w⟩

theorem stosOp_within {w : Width} : RunsWithin jumps [.r32 .edi] ns s (stosOp w s) := by
  refine .of_advance fun t ht => ?_
  obtain ⟨u, hu, ht⟩ := bind_eq_ok.mp ht
  exact ⟨_, Except.ok.inj ht, ((Changes.refl _ ns s).memWrite hu).advancePtr (by simp) w⟩

theorem lodsOp_within {w : Width} : RunsWithin jumps [accReg w, .r32 .esi] ns s (lodsOp w s) := by
  refine .of_advance fun t ht => ?_
  obtain ⟨v, -, ht⟩ := bind_eq_ok.mp ht
  exact ⟨_, Except.ok.inj ht, ((Changes.refl _ ns s).writeReg (by simp) _).advancePtr (by simp) w⟩

theorem pushFlags_within : RunsWithin jumps [.r32 .esp] ns s (pushFlags s) :=
  plainOp_within fun _ ht => (Changes.refl _ ns s).push32 (by simp) ht

theorem popFlags_within : RunsWithin jumps [.r32 .esp] FlagName.all s (popFlags s) :=
  plainOp_within fun t ht => by
    obtain ⟨p, hp, rfl⟩ := map_eq_ok.mp ht
    refine ((Changes.refl _ _ s).pop32 (by simp) hp).withFlags fun n hn => absurd ?_ hn
    cases n <;> decide

/-! ## The meanings whose body is their own -/

theorem execMul_within {src : Src} : RunsWithin jumps [.r32 .eax, .r32 .edx] statusFlags s (execMul src s) :=
  sourceOp_within fun x t ht => by
    cases ht
    refine (((Changes.refl _ _ s).setEaxEdx (by simp) (by simp) _ _).withFlags ?_).drew _
    exact get_of_not_status s.flags _ _ _ _ _ _

theorem execImul_one_within {src : Src} : RunsWithin jumps [.r32 .eax, .r32 .edx] statusFlags s (execImul src none s) :=
  sourceOp_within fun x t ht => by
    cases ht
    refine (((Changes.refl _ _ s).setEaxEdx (by simp) (by simp) _ _).withFlags ?_).drew _
    exact get_of_not_status s.flags _ _ _ _ _ _

theorem execImul_two_within {src : Src} {c : Cell} : RunsWithin jumps [.r32 c] statusFlags s (execImul src (some c) s) :=
  sourceOp_within fun x t ht => by
    cases ht
    refine (((Changes.refl _ _ s).setCell (by simp) _).withFlags ?_).drew _
    exact get_of_not_status s.flags _ _ _ _ _ _

theorem Changes.divide (q m : Word) : Changes [.r32 .eax, .r32 .edx] statusFlags s (divide q m s) := by
  refine (((Changes.refl _ _ s).setEaxEdx (by simp) (by simp) q m).withFlags ?_).drew _
  exact get_of_not_status _ _ _ _ _ _ _

theorem execDiv_within {src : Src} : RunsWithin jumps [.r32 .eax, .r32 .edx] statusFlags s (execDiv src s) :=
  sourceOp_within fun x t ht => by
    dsimp only at ht
    split at ht
    · cases ht
    · split at ht
      · cases ht
      · cases ht; exact .divide _ _

theorem execIdiv_within {src : Src} : RunsWithin jumps [.r32 .eax, .r32 .edx] statusFlags s (execIdiv src s) :=
  sourceOp_within fun x t ht => by
    dsimp only at ht
    split at ht
    · cases ht
    · split at ht
      · cases ht
      · cases ht; exact .divide _ _

theorem execMov_within {w : Width} {src : Src} {dst : Dst} :
    RunsWithin jumps (dstRegs dst) (if s.cfg.clearBeforeMov then clearSet s.cfg.clearScope else []) s (execMov w src dst s) := by
  refine .of_advance fun t ht => ?_
  obtain ⟨x, -, ht⟩ := bind_eq_ok.mp ht
  obtain ⟨u, hu, ht⟩ := bind_eq_ok.mp ht
  exact ⟨u, Except.ok.inj ht, ((Changes.refl _ _ s).withFlags (get_movFlags s)).writeDst (List.Subset.refl _) hu⟩

theorem execPush_within {src : Src} : RunsWithin jumps [.r32 .esp] ns s (execPush src s) :=
  sourceOp_within fun x t ht => by
    unfold pushValue at ht
    split at ht
    · obtain ⟨u, hu, rfl⟩ := map_eq_ok.mp ht
      exact ((Changes.refl _ ns s).push32 (by simp) hu).chose _
    · exact (Changes.refl _ ns s).push32 (by simp) ht

theorem execPop_within {dst : Dst} : RunsWithin jumps (.r32 .esp :: dstRegs dst) ns s (execPop dst s) :=
  plainOp_within fun t ht => by
    obtain ⟨p, hp, ht⟩ := bind_eq_ok.mp ht
    unfold popInto at ht
    split at ht
    · cases ht
      exact ((Changes.refl _ ns s).setCell (by simp) _).chose _
    · exact ((Changes.refl _ ns s).pop32 (by simp) hp).writeDst (List.subset_cons_self _ _) ht

theorem execCall_within {target : Text} : RunsWithin true [.r32 .esp] ns s (execCall target s) := by
  have pushed : ∀ (leave : State → State), (∀ u, ∃ k, leave u = u.withPc k) →
      RunsWithin true [.r32 .esp] ns s (complete s ((s.push32 (returnAddress s)).map leave)) := by
    refine fun leave hleave => .of_jump fun t ht => ?_
    obtain ⟨u, hu, rfl⟩ := map_eq_ok.mp ht
    obtain ⟨k, hk⟩ := hleave u
    exact ⟨u, k, hk.symm, (Changes.refl _ ns s).push32 (by simp) hu⟩
  unfold execCall
  split
  · exact pushed _ fun u => ⟨_, rfl⟩
  · split
    · exact .of_jump fun t ht => by cases ht
    · exact pushed _ fun u => ⟨_, rfl⟩

theorem execRet_within {size : Option (BitVec 16)} : RunsWithin true [.r32 .esp] ns s (execRet size s) := by
  refine .of_jump fun t ht => ?_
  obtain ⟨p, hp, ht⟩ := map_eq_ok.mp ht
  exact ⟨_, _, ht, ((Changes.refl _ ns s).pop32 (by simp) hp).setCell (by simp) _⟩

theorem execEnter_within {size : BitVec 16} {level : Option Byte} :
    RunsWithin jumps [.r32 .ebp, .r32 .esp] ns s (execEnter size level s) :=
  plainOp_within fun t ht => by
    obtain ⟨p, hp, ht⟩ := bind_eq_ok.mp ht
    obtain ⟨q, hq, ht⟩ := bind_eq_ok.mp ht
    cases ht
    have hpushed := ((Changes.refl [.r32 .ebp, .r32 .esp] ns s).enterPush hp).enterDisplay hq
    exact (hpushed.setCell (by simp) _).setCell (by simp) _

theorem execLeave_within : RunsWithin jumps [.r32 .ebp, .r32 .esp] ns s (execLeave s) :=
  plainOp_within fun t ht => by
    obtain ⟨v, -, rfl⟩ := map_eq_ok.mp ht
    exact ((Changes.refl _ ns s).setCell (by simp) _).setCell (by simp) _

end

/-! ## Every instruction -/

/-- Every instruction changes only the views and the flags listed for it, and advances the pc unless it redirects it. -/
theorem exec_runsWithin (i : Instr) (s : State) :
    RunsWithin (redirects i) (regsWritten i) (flagsWritten s i) s (exec i s) := by
  have writes : ∀ dst, dstRegs dst ⊆ dstRegs dst := fun _ => List.Subset.refl _
  cases i
  case add | sub => exact binaryOp_within (writes _) fun _ _ => (Changes.refl _ _ s).withFlags (get_ofAlu _ _)
  case adc | sbb => exact binaryOp_within (writes _) fun _ _ => (Changes.choseAlias _ _ s).withFlags (get_ofAlu _ _)
  case cmp => exact compareOp_within fun _ _ => (Changes.refl _ _ s).withFlags (get_ofAlu _ _)
  case inc | dec => exact unaryOp_within (writes _) fun _ => (Changes.refl _ _ s).withFlags (get_ofAluKeepCf _ _)
  case neg => exact unaryOp_within (writes _) fun _ => (Changes.refl _ _ s).withFlags (get_of_not_status s.flags _ _ _ _ _ _)
  case and | or | xor => exact binaryOp_within (writes _) fun _ _ => (Changes.refl _ _ s).withFlags (get_logic _ _ _)
  case test => exact compareOp_within fun _ _ => (Changes.refl _ _ s).withFlags (get_logic _ _ _)
  case not => exact unaryOp_within (writes _) fun _ => .refl _ _ s
  case mul => exact execMul_within
  case imul src dst =>
    cases dst with
    | none => exact execImul_one_within
    | some c => exact execImul_two_within
  case div => exact execDiv_within
  case idiv => exact execIdiv_within
  case rol | ror | rcl | rcr => simp only [exec, execRol, execRor, execRcl, execRcr]; exact rotateOp_within
  case shl | sal | shr | sar => simp only [exec, execShl, execSal, execShr, execSar]; exact shiftOp_within
  case mov => exact execMov_within
  case push => exact execPush_within
  case pop => exact execPop_within
  case pushf | pushfl | pushfd => exact pushFlags_within
  case popf | popfl | popfd => exact popFlags_within
  case lahf => exact plainOp_ok_within ((Changes.refl _ _ s).writeReg (List.mem_singleton.mpr rfl) _)
  case sahf => exact plainOp_ok_within ((Changes.refl _ _ s).withFlags (get_unpackLow _ _))
  case jmp => exact withTarget_within fun k => ⟨s, k, rfl, .refl _ _ s⟩
  case call => exact execCall_within
  case ret => exact execRet_within
  case enter => exact execEnter_within
  case leave => exact execLeave_within
  case nop => exact plainOp_ok_within (.refl _ _ s)
  case hlt => exact plainOp_ok_within ((Changes.refl _ _ s).withExit true)
  case cmpsb | cmpsw | cmpsd | cmpsl => exact cmpsOp_within
  case movsb | movsw | movsd | movsl => exact movsOp_within
  case scasb | scasw | scasd | scasl => exact scasOp_within
  case stosb | stosw | stosd | stosl => exact stosOp_within
  case lodsb | lodsw | lodsd | lodsl => exact lodsOp_within
  case jo | jno | jb | jc | jnae | jae | jnb | jnc | je | jz | jne | jnz
    | jbe | jna | ja | jnbe | js | jns | jp | jpe | jnp | jpo | jl | jnge
    | jge | jnl | jle | jng | jg | jnle => exact jumpIf_within
  case cmovo | cmovno | cmovb | cmovc | cmovnae | cmovae | cmovnb | cmovnc | cmove | cmovz | cmovne | cmovnz
    | cmovbe | cmovna | cmova | cmovnbe | cmovs | cmovns | cmovp | cmovpe | cmovnp | cmovpo | cmovl | cmovnge
    | cmovge | cmovnl | cmovle | cmovng | cmovg | cmovnle => exact cmovIf_within
  case seto | setno | setb | setc | setnae | setae | setnb | setnc | sete | setz | setne | setnz
    | setbe | setna | seta | setnbe | sets | setns | setp | setpe | setnp | setpo | setl | setnge
    | setge | setnl | setle | setng | setg | setnle => exact setIf_within

/-- An instruction takes an error, or its changes are retired. -/
theorem exec_changes {i : Instr} {s t : State} (h : exec i s = .next t) :
    (∃ e, t = s.raise e) ∨
      ∃ u k, t = (u.withPc k).retire ∧ Changes (regsWritten i) (flagsWritten s i) s u ∧ (redirects i = false → k = s.pc + 1) := by
  obtain ⟨body, hbody, hwithin⟩ := exec_runsWithin i s
  rcases complete_cases s body with ⟨e, -, hc⟩ | ⟨t', ht', hc⟩
  · rw [hbody, hc] at h
    cases h
    exact .inl ⟨e, rfl⟩
  · rw [hbody, hc] at h
    cases h
    obtain ⟨u, k, rfl, hu, hk⟩ := hwithin t' ht'
    exact .inr ⟨u, k, rfl, hu, hk⟩

/-- Settles O26. -/
theorem registerFrame : Obligations.RegisterFrame := by
  intro i s t c k h hout
  obtain ⟨e, rfl⟩ | ⟨u, pc, rfl, hu, -⟩ := exec_changes h
  · rfl
  · simpa using hu.bits c k hout

/-- Settles O28. -/
theorem flagFrame : Obligations.FlagFrame := by
  intro i s t n h hout
  obtain ⟨e, rfl⟩ | ⟨u, pc, rfl, hu, -⟩ := exec_changes h
  · rfl
  · simpa using hu.flags n hout

/-- An instruction that does not redirect the pc takes an error or advances it. -/
theorem exec_advances {i : Instr} {s t : State} (h : exec i s = .next t) :
    (∃ e, t = s.raise e) ∨ (redirects i = false → t.pc = s.pc + 1) := by
  obtain herr | ⟨u, k, rfl, -, hk⟩ := exec_changes h
  · exact .inl herr
  · exact .inr fun hi => by simpa using hk hi

/-- Settles O29: what the body keeps (`exec_runs`) and where it leaves the pc, then the retirement. -/
theorem controlFrame : Obligations.ControlFrame := by
  intro i s
  by_cases hi : i = .hlt
  · subst hi
    exact ⟨_, exec_hlt s, ⟨rfl, rfl, rfl, rfl⟩, .inr ⟨fun _ => rfl, by simp, rfl⟩⟩
  · obtain ⟨e, he⟩ | ⟨u, hu, hk⟩ := (exec_runs i s hi).cases
    · exact ⟨_, he, ⟨rfl, rfl, rfl, rfl⟩, .inl ⟨e, rfl⟩⟩
    · refine ⟨_, hu, hk.programKept.retire, (exec_advances hu).imp_right fun hpc => ⟨hpc, ?_, ?_⟩⟩
      · simp [hk.exit, hi]
      · simp [hk.status]

end Sys2Proof.Machine
end

section
/-! The stored-only flags (10_state.md rule R44): two states that agree but for them run every instruction alike, up to them. The one
exception is `pushf`, which stores them. -/

namespace Sys2Proof.Machine

/-! ## Flag registers that agree on the flags some rule reads -/

theorem liveFlagsAgree_iff {f g : Flags} :
    LiveFlagsAgree f g ↔ f.cf = g.cf ∧ f.pf = g.pf ∧ f.af = g.af ∧ f.zf = g.zf ∧ f.sf = g.sf ∧ f.df = g.df ∧ f.ovf = g.ovf := by
  simp [LiveFlagsAgree, liveFlags, Flags.get]

section

variable {f g : Flags}

theorem LiveFlagsAgree.refl (f : Flags) : LiveFlagsAgree f f := fun _ _ => rfl

theorem LiveFlagsAgree.cf (h : LiveFlagsAgree f g) : g.cf = f.cf := (h .cf (by decide)).symm

theorem LiveFlagsAgree.df (h : LiveFlagsAgree f g) : g.df = f.df := (h .df (by decide)).symm

theorem LiveFlagsAgree.ovf (h : LiveFlagsAgree f g) : g.ovf = f.ovf := (h .ovf (by decide)).symm

/-- Replacing the status flags alike leaves the direction flag to agree. -/
theorem LiveFlagsAgree.status (h : LiveFlagsAgree f g) (cf pf af zf sf ovf : Bool) :
    LiveFlagsAgree { f with cf := cf, pf := pf, af := af, zf := zf, sf := sf, ovf := ovf }
      { g with cf := cf, pf := pf, af := af, zf := zf, sf := sf, ovf := ovf } :=
  liveFlagsAgree_iff.mpr ⟨rfl, rfl, rfl, rfl, rfl, h.df.symm, rfl⟩

theorem LiveFlagsAgree.ofAlu {n : Nat} (h : LiveFlagsAgree f g) (a : Alu n) : LiveFlagsAgree (f.ofAlu a) (g.ofAlu a) :=
  h.status _ _ _ _ _ _

theorem LiveFlagsAgree.ofAluKeepCf {n : Nat} (h : LiveFlagsAgree f g) (a : Alu n) :
    LiveFlagsAgree (f.ofAluKeepCf a) (g.ofAluKeepCf a) :=
  liveFlagsAgree_iff.mpr ⟨h.cf.symm, rfl, rfl, rfl, rfl, h.df.symm, rfl⟩

theorem LiveFlagsAgree.negFlags {n : Nat} (h : LiveFlagsAgree f g) (d : BitVec n) :
    LiveFlagsAgree (negFlags f d) (negFlags g d) :=
  h.status _ _ _ _ _ _

theorem LiveFlagsAgree.clearScope (h : LiveFlagsAgree f g) (scope : ClearScope) :
    LiveFlagsAgree (f.clearScope scope) (g.clearScope scope) := by
  cases scope with
  | all16 => exact .refl _
  | status6 => exact h.status _ _ _ _ _ _

theorem LiveFlagsAgree.logic {n : Nat} (h : LiveFlagsAgree f g) (scope : ClearScope) (r : BitVec n) :
    LiveFlagsAgree (f.logic scope r) (g.logic scope r) :=
  (h.clearScope scope).status _ _ _ _ _ _

theorem LiveFlagsAgree.unpackLow (h : LiveFlagsAgree f g) (b : Byte) : LiveFlagsAgree (f.unpackLow b) (g.unpackLow b) :=
  liveFlagsAgree_iff.mpr ⟨rfl, rfl, rfl, rfl, rfl, h.df.symm, h.ovf.symm⟩

/-- The conditions read live flags only. -/
theorem LiveFlagsAgree.condHolds (h : LiveFlagsAgree f g) (c : Cond) : condHolds g c = condHolds f c := by
  obtain ⟨hcf, hpf, -, hzf, hsf, -, hovf⟩ := liveFlagsAgree_iff.mp h
  cases c <;> simp [Machine.condHolds, hcf, hpf, hzf, hsf, hovf]

theorem LiveFlagsAgree.carryIn (h : LiveFlagsAgree f g) (n : Nat) : carryIn n g = carryIn n f := by
  rw [Machine.carryIn, Machine.carryIn, h.cf]

/-- The low byte of the packed word holds live flags only (R366). -/
theorem LiveFlagsAgree.packLow (h : LiveFlagsAgree f g) : g.pack.extractLsb' 0 8 = f.pack.extractLsb' 0 8 := by
  have hlive : ∀ n : FlagName, n.pos < 8 → n ∈ liveFlags := by intro n; cases n <;> decide
  apply BitVec.eq_of_getLsbD_eq
  intro k hk
  have hbit : ∀ n : FlagName, (n.pos == k && g.get n) = (n.pos == k && f.get n) := by
    intro n
    by_cases hn : n.pos = k
    · rw [h n (hlive n (hn ▸ hk))]
    · rw [beq_false_of_ne hn, Bool.false_and, Bool.false_and]
  simp only [BitVec.getLsbD_extractLsb', Nat.zero_add, pack_getLsbD _ (show k < 32 by omega), packedBit,
    hbit]

end

/-! ## States that differ in the stored-only flags -/

/-- `t` is `s` but for stored-only flags. -/
def Alike (s t : State) : Prop := ∃ f, t = s.withFlags f ∧ LiveFlagsAgree s.flags f

section

variable {s t : State}

theorem Alike.liveFlags (h : Alike s t) : LiveFlagsAgree s.flags t.flags := by
  obtain ⟨f, rfl, hf⟩ := h
  exact hf

theorem Alike.cell (h : Alike s t) (c : Cell) : t.cell c = s.cell c := by obtain ⟨f, rfl, -⟩ := h; rfl

theorem Alike.cfg (h : Alike s t) : t.cfg = s.cfg := by obtain ⟨f, rfl, -⟩ := h; rfl

theorem Alike.labels (h : Alike s t) : t.labels = s.labels := by obtain ⟨f, rfl, -⟩ := h; rfl

theorem Alike.pc (h : Alike s t) : t.pc = s.pc := by obtain ⟨f, rfl, -⟩ := h; rfl

theorem Alike.readReg (h : Alike s t) (r : Reg) : t.readReg r = s.readReg r := by
  obtain ⟨f, rfl, -⟩ := h
  cases r <;> rfl

theorem Alike.memRead (h : Alike s t) (a : Int) (w : Width) : t.memRead a w = s.memRead a w := by
  obtain ⟨f, rfl, -⟩ := h
  rfl

theorem Alike.val (h : Alike s t) (w : Width) (v : ValueView) : t.val w v = s.val w v := by
  cases v with
  | register r => simp only [State.val, h.readReg]
  | memory a => exact h.memRead a w
  | immediate k => rfl

theorem Alike.dstView (h : Alike s t) (dst : Dst) : t.dstView dst = s.dstView dst := by
  cases dst with
  | reg r => rfl
  | mem m => simp only [State.dstView, State.ea_congr h.cell]

theorem Alike.srcView (h : Alike s t) (src : Src) : t.srcView src = s.srcView src := by
  cases src with
  | imm k => rfl
  | reg r => rfl
  | mem m => simp only [State.srcView, State.ea_congr h.cell]

theorem Alike.dstVal (h : Alike s t) (w : Width) (dst : Dst) : t.dstVal w dst = s.dstVal w dst := by
  rw [State.dstVal, h.dstView, h.val, State.dstVal]

theorem Alike.srcVal (h : Alike s t) (w : Width) (src : Src) : t.srcVal w src = s.srcVal w src := by
  rw [State.srcVal, h.srcView, h.val, State.srcVal]

theorem Alike.choose {α : Type} (h : Alike s t) (p : AliasPolicy) (a b : α) : t.choose p a b = s.choose p a b := by
  obtain ⟨f, rfl, -⟩ := h
  rfl

theorem Alike.draw (h : Alike s t) (k : Nat) : t.draw k = s.draw k := by
  obtain ⟨f, rfl, -⟩ := h
  rfl

theorem Alike.countValue (h : Alike s t) (c : Count) : countValue t c = countValue s c := by
  cases c with
  | one => rfl
  | imm k => rfl
  | cl => exact h.readReg (.lo8 .ecx)

theorem Alike.of_live {f : Flags} (h : LiveFlagsAgree s.flags f) : Alike s (s.withFlags f) := ⟨f, rfl, h⟩

theorem Alike.withFlags (h : Alike s t) {f g : Flags} (hfg : LiveFlagsAgree f g) : Alike (s.withFlags f) (t.withFlags g) := by
  obtain ⟨_, rfl, -⟩ := h
  exact ⟨g, rfl, hfg⟩

theorem Alike.withPc (h : Alike s t) (n : Nat) : Alike (s.withPc n) (t.withPc n) := by
  obtain ⟨f, rfl, hf⟩ := h
  exact ⟨f, rfl, hf⟩

theorem Alike.advance (h : Alike s t) : Alike s.advance t.advance := by
  obtain ⟨f, rfl, hf⟩ := h
  exact ⟨f, rfl, hf⟩

theorem Alike.withExit (h : Alike s t) (b : Bool) : Alike (s.withExit b) (t.withExit b) := by
  obtain ⟨f, rfl, hf⟩ := h
  exact ⟨f, rfl, hf⟩

theorem Alike.drew (h : Alike s t) (k : Nat) : Alike (s.drew k) (t.drew k) := by
  obtain ⟨f, rfl, hf⟩ := h
  exact ⟨f, rfl, hf⟩

theorem Alike.chose (h : Alike s t) (p : AliasPolicy) : Alike (s.chose p) (t.chose p) := by
  cases p with
  | either => exact h.drew 1
  | snapshot => exact h
  | inplace => exact h

theorem Alike.setCell (h : Alike s t) (c : Cell) (v : Word) : Alike (s.setCell c v) (t.setCell c v) := by
  obtain ⟨f, rfl, hf⟩ := h
  exact ⟨f, rfl, hf⟩

theorem Alike.writeReg (h : Alike s t) (r : Reg) (v : BitVec r.width.bits) : Alike (s.writeReg r v) (t.writeReg r v) := by
  rw [State.writeReg, State.writeReg, h.cell]
  exact h.setCell _ _

theorem Alike.setEaxEdx (h : Alike s t) (a d : Word) : Alike (setEaxEdx a d s) (setEaxEdx a d t) :=
  (h.setCell _ _).setCell _ _

theorem Alike.choseAlias (h : Alike s t) (src : Src) (dst : Dst) : Alike (choseAlias src dst s) (choseAlias src dst t) := by
  unfold Machine.choseAlias
  rw [h.cfg]
  split
  · exact h.chose _
  · exact h

/-- The string pointers move as the direction flag says, which is live. -/
theorem Alike.advancePtr (h : Alike s t) (c : Cell) (w : Width) : Alike (advancePtr c w s) (advancePtr c w t) := by
  rw [Machine.advancePtr, Machine.advancePtr, h.cell, h.cfg, h.liveFlags.df]
  exact h.setCell _ _

end

/-! ## Computations that match -/

/-- Both computations fail with one error, or both succeed with related values. -/
inductive Matches {α : Type} (R : α → α → Prop) : Except ErrorKind α → Except ErrorKind α → Prop
  | error (e : ErrorKind) : Matches R (.error e) (.error e)
  | ok {a b : α} (h : R a b) : Matches R (.ok a) (.ok b)

section

variable {α β : Type} {R : α → α → Prop} {Q : β → β → Prop}

theorem Matches.same {x : Except ErrorKind α} (h : ∀ a, R a a) : Matches R x x := by
  cases x with
  | error e => exact .error e
  | ok a => exact .ok (h a)

theorem Matches.bind {x y : Except ErrorKind α} {f g : α → Except ErrorKind β} (h : Matches R x y)
    (hfg : ∀ a b, R a b → Matches Q (f a) (g b)) : Matches Q (x >>= f) (y >>= g) := by
  cases h with
  | error e => exact .error e
  | ok h => exact hfg _ _ h

/-- Two computations that begin with one read. -/
theorem Matches.bind_same {x y : Except ErrorKind α} {f g : α → Except ErrorKind β} (h : y = x)
    (hfg : ∀ a, Matches Q (f a) (g a)) : Matches Q (x >>= f) (y >>= g) := by
  subst h
  exact (Matches.same (R := Eq) fun _ => rfl).bind fun a b hab => hab ▸ hfg a

theorem Matches.map {x y : Except ErrorKind α} {f g : α → β} (h : Matches R x y) (hfg : ∀ a b, R a b → Q (f a) (g b)) :
    Matches Q (x.map f) (y.map g) := by
  cases h with
  | error e => exact .error e
  | ok h => exact .ok (hfg _ _ h)

theorem Matches.map_same {x y : Except ErrorKind α} {f g : α → β} (h : y = x) (hfg : ∀ a, Q (f a) (g a)) :
    Matches Q (x.map f) (y.map g) := by
  subst h
  exact (Matches.same (R := Eq) fun _ => rfl).map fun a b hab => hab ▸ hfg a

end

section

variable {s t s0 t0 : State}

theorem Alike.memWrite (h : Alike s t) (a : Int) (w : Width) (v : BitVec w.bits) :
    Matches Alike (s.memWrite a w v) (t.memWrite a w v) := by
  obtain ⟨f, rfl, hf⟩ := h
  by_cases hb : s.inBounds a w.bytes
  · rw [State.memWrite_of_inBounds hb, State.memWrite_of_inBounds (s := s.withFlags f) hb]
    exact .ok ⟨f, rfl, hf⟩
  · rw [State.memWrite_of_not_inBounds hb, State.memWrite_of_not_inBounds (s := s.withFlags f) hb]
    exact .error _

/-- The same value written to the same destination. -/
theorem Alike.writeDst (h0 : Alike s0 t0) (h : Alike s t) (w : Width) (dst : Dst) (v : BitVec w.bits) :
    Matches Alike (s0.writeDst w dst v s) (t0.writeDst w dst v t) := by
  rw [State.writeDst, State.writeDst, h0.dstView]
  cases s0.dstView dst with
  | register r => exact .ok (h.writeReg r _)
  | memory a => exact h.memWrite a w v
  | immediate k => exact .ok h

theorem Alike.push32 (h : Alike s t) (v : Word) : Matches Alike (s.push32 v) (t.push32 v) := by
  rw [State.push32, State.push32, h.cell]
  exact (h.memWrite _ .w32 v).map fun _ _ hab => hab.setCell _ _

theorem Alike.pop32 (h : Alike s t) : Matches (fun p q => q.1 = p.1 ∧ Alike p.2 q.2) s.pop32 t.pop32 := by
  rw [State.pop32, State.pop32, h.cell, h.memRead]
  exact .map_same rfl fun v => ⟨rfl, h.setCell _ _⟩

/-! ## Instructions that match -/

/-- Both instructions answer a next state, and the two differ in stored-only flags only. -/
def ResultsAlike (r r' : Result) : Prop :=
  ∃ t g, r = .next t ∧ r' = .next (t.withFlags g) ∧ LiveFlagsAgree t.flags g

theorem State.retire_withFlags (f : Flags) (s : State) : (s.withFlags f).retire = s.retire.withFlags f := by
  unfold State.retire
  rw [State.withFlags_exit]
  split <;> rfl

theorem complete_alike (h : Alike s t) {x y : Except ErrorKind State} (hxy : Matches Alike x y) :
    ResultsAlike (complete s x) (complete t y) := by
  cases hxy with
  | error e =>
    obtain ⟨f, rfl, hf⟩ := h
    exact ⟨s.raise e, f, rfl, rfl, hf⟩
  | ok hab =>
    obtain ⟨g, rfl, hg⟩ := hab
    exact ⟨_, g, rfl, by rw [complete_ok, State.retire_withFlags], by simpa using hg⟩

theorem binaryOp_alike (h : Alike s t) {w : Width} {src : Src} {dst : Dst}
    {f g : BitVec w.bits → BitVec w.bits → BitVec w.bits × State}
    (hfg : ∀ d x, (g d x).1 = (f d x).1 ∧ Alike (f d x).2 (g d x).2) :
    ResultsAlike (binaryOp w src dst f s) (binaryOp w src dst g t) := by
  refine complete_alike h (.bind_same (h.dstVal w dst) fun d => .bind_same (h.srcVal w src) fun x => ?_)
  obtain ⟨hval, hstate⟩ := hfg d x
  rw [hval]
  exact (h.writeDst hstate w dst _).bind fun _ _ hab => .ok hab.advance

theorem compareOp_alike (h : Alike s t) {w : Width} {src : Src} {dst : Dst} {f g : BitVec w.bits → BitVec w.bits → State}
    (hfg : ∀ d x, Alike (f d x) (g d x)) : ResultsAlike (compareOp w src dst f s) (compareOp w src dst g t) :=
  complete_alike h (.bind_same (h.dstVal w dst) fun d => .bind_same (h.srcVal w src) fun x => .ok (hfg d x).advance)

theorem unaryOp_alike (h : Alike s t) {w : Width} {dst : Dst} {f g : BitVec w.bits → BitVec w.bits × State}
    (hfg : ∀ d, (g d).1 = (f d).1 ∧ Alike (f d).2 (g d).2) : ResultsAlike (unaryOp w dst f s) (unaryOp w dst g t) := by
  refine complete_alike h (.bind_same (h.dstVal w dst) fun d => ?_)
  obtain ⟨hval, hstate⟩ := hfg d
  rw [hval]
  exact (h.writeDst hstate w dst _).bind fun _ _ hab => .ok hab.advance

theorem sourceOp_alike (h : Alike s t) {src : Src} {f g : Word → Except ErrorKind State}
    (hfg : ∀ x, Matches Alike (f x) (g x)) : ResultsAlike (sourceOp src f s) (sourceOp src g t) :=
  complete_alike h (.bind_same (h.srcVal .w32 src) fun x => (hfg x).bind fun _ _ hab => .ok hab.advance)

theorem plainOp_alike (h : Alike s t) {x y : Except ErrorKind State} (hxy : Matches Alike x y) :
    ResultsAlike (plainOp x s) (plainOp y t) :=
  complete_alike h (hxy.map fun _ _ hab => hab.advance)

/-! ## The families -/

/-- `adc` and `sbb` read the carry, which is live. -/
theorem twoStep_alike (h : Alike s t) {n : Nat} (core : BitVec n → BitVec n → Alu n) (src : Src) (dst : Dst) (d x : BitVec n) :
    twoStep core d (carryIn n t.flags) (stepTwoSource src dst t x) =
      twoStep core d (carryIn n s.flags) (stepTwoSource src dst s x) := by
  have hsource : stepTwoSource src dst t x = stepTwoSource src dst s x := by
    funext u
    simp only [stepTwoSource, h.choose, h.cfg]
  rw [h.liveFlags.carryIn, hsource]

theorem Alike.logicFlags (h : Alike s t) {n : Nat} (r : BitVec n) : Alike (logicFlags s r) (logicFlags t r) := by
  rw [Machine.logicFlags, Machine.logicFlags, h.cfg]
  exact h.withFlags (h.liveFlags.logic _ r)

/-- OF after a rotate or shift is kept, computed or drawn. -/
theorem Alike.overflowAfter (h : Alike s t) (n k : Nat) (formula : Bool) :
    overflowAfter t n k formula = overflowAfter s n k formula := by
  rw [Machine.overflowAfter, h.liveFlags.ovf, h.draw, Machine.overflowAfter]

theorem Alike.rotateState (h : Alike s t) (n : Nat) (cf formula : Bool) :
    Alike (rotateState s n cf formula) (rotateState t n cf formula) := by
  rw [Machine.rotateState, Machine.rotateState, h.overflowAfter]
  refine (h.withFlags (liveFlagsAgree_iff.mpr ?_)).drew _
  obtain ⟨-, hpf, haf, hzf, hsf, hdf, -⟩ := liveFlagsAgree_iff.mp h.liveFlags
  exact ⟨rfl, hpf, haf, hzf, hsf, hdf, rfl⟩

theorem Alike.shiftState (h : Alike s t) (n : Nat) (cf formula : Bool) :
    Alike (shiftState s n cf formula) (shiftState t n cf formula) := by
  refine (h.withFlags ?_).drew _
  rw [shiftFlags, shiftFlags]
  split
  · exact h.liveFlags
  · simp only [h.draw, h.overflowAfter]
    exact h.liveFlags.status _ _ _ _ _ _

theorem rotateOp_alike (h : Alike s t) {w : Width} {count : Count} {dst : Dst}
    {step : BitVec w.bits × Bool → BitVec w.bits × Bool} {formula : BitVec w.bits → Bool → Bool} :
    ResultsAlike (rotateOp w count dst step formula s) (rotateOp w count dst step formula t) := by
  refine unaryOp_alike h fun d => ?_
  simp only [rotateCount, h.countValue, h.liveFlags.cf]
  exact ⟨trivial, h.rotateState _ _ _⟩

theorem shiftOp_alike (h : Alike s t) {w : Width} {count : Count} {dst : Dst}
    {step : BitVec w.bits → BitVec w.bits × Bool → BitVec w.bits × Bool}
    {formula : BitVec w.bits → BitVec w.bits → Bool → Bool} :
    ResultsAlike (shiftOp w count dst step formula s) (shiftOp w count dst step formula t) := by
  refine unaryOp_alike h fun d => ?_
  simp only [shiftCount, h.countValue, h.cfg, h.liveFlags.cf]
  exact ⟨trivial, h.shiftState _ _ _⟩

theorem withTarget_alike (h : Alike s t) {target : Text} {found found' : Nat → State} (hk : ∀ k, Alike (found k) (found' k)) :
    ResultsAlike (withTarget target s found) (withTarget target t found') := by
  rw [withTarget, withTarget, h.labels, h.cfg]
  split
  · exact complete_alike h (.ok (hk _))
  · split
    · exact complete_alike h (.error _)
    · exact complete_alike h (.ok h.advance)

theorem jumpIf_alike (h : Alike s t) {c : Cond} {target : Text} : ResultsAlike (jumpIf c target s) (jumpIf c target t) :=
  withTarget_alike h fun k => by
    rw [h.liveFlags.condHolds]
    split
    · exact h.withPc k
    · exact h.advance

theorem cmovIf_alike (h : Alike s t) {c : Cond} {w : Width} {src : Src} {dst : Dst} :
    ResultsAlike (cmovIf c w src dst s) (cmovIf c w src dst t) := by
  have hcheck : t.checkView w (t.dstView dst) = s.checkView w (s.dstView dst) := by
    rw [State.checkView, State.checkView, h.dstView, h.val]
  refine complete_alike h (.bind_same (h.srcVal w src) fun x => .bind_same hcheck fun _ =>
    .map (R := Alike) ?_ fun _ _ hab => hab.advance)
  rw [h.liveFlags.condHolds]
  split
  · exact h.writeDst h w dst x
  · exact .ok h

theorem setIf_alike (h : Alike s t) {c : Cond} {dst : Dst} : ResultsAlike (setIf c dst s) (setIf c dst t) := by
  rw [setIf, setIf, h.liveFlags.condHolds]
  exact complete_alike h ((h.writeDst h .w8 dst _).bind fun _ _ hab => .ok hab.advance)

theorem Alike.element (h : Alike s t) (c : Cell) (w : Width) : element c w t = element c w s := by
  rw [Machine.element, h.cell, h.memRead, Machine.element]

theorem Alike.accValue (h : Alike s t) (w : Width) : accValue w t = accValue w s := by
  rw [Machine.accValue, h.readReg, Machine.accValue]

theorem cmpsOp_alike (h : Alike s t) {w : Width} : ResultsAlike (cmpsOp w s) (cmpsOp w t) := by
  refine complete_alike h (.bind_same (h.element .esi w) fun a => .bind_same (h.element .edi w) fun b => .ok ?_)
  exact (((h.withFlags (h.liveFlags.ofAlu _)).advancePtr .esi w).advancePtr .edi w).advance

theorem movsOp_alike (h : Alike s t) {w : Width} : ResultsAlike (movsOp w s) (movsOp w t) := by
  refine complete_alike h (.bind_same (h.element .esi w) fun v => ?_)
  rw [h.cell]
  exact (h.memWrite _ w v).bind fun _ _ hab => .ok ((hab.advancePtr .esi w).advancePtr .edi w).advance

theorem scasOp_alike (h : Alike s t) {w : Width} : ResultsAlike (scasOp w s) (scasOp w t) := by
  refine complete_alike h (.bind_same (h.element .edi w) fun b => .ok ?_)
  rw [h.accValue]
  exact ((h.withFlags (h.liveFlags.ofAlu _)).advancePtr .edi w).advance

theorem stosOp_alike (h : Alike s t) {w : Width} : ResultsAlike (stosOp w s) (stosOp w t) := by
  rw [stosOp, stosOp, h.accValue, h.cell]
  exact complete_alike h ((h.memWrite _ w _).bind fun _ _ hab => .ok (hab.advancePtr .edi w).advance)

theorem lodsOp_alike (h : Alike s t) {w : Width} : ResultsAlike (lodsOp w s) (lodsOp w t) :=
  complete_alike h (.bind_same (h.element .esi w) fun _ => .ok ((h.writeReg (accReg w) _).advancePtr .esi w).advance)

theorem popFlags_alike (h : Alike s t) : ResultsAlike (popFlags s) (popFlags t) := by
  refine plainOp_alike h (h.pop32.map fun p q hpq => ?_)
  obtain ⟨hval, hstate⟩ := hpq
  rw [hval]
  exact hstate.withFlags (.refl _)

/-! ## The meanings whose body is their own -/

theorem execMul_alike (h : Alike s t) {src : Src} : ResultsAlike (execMul src s) (execMul src t) :=
  sourceOp_alike h fun x => by
    simp only [h.cell, mulFlags, h.draw]
    exact .ok (((h.setEaxEdx _ _).withFlags (h.liveFlags.status _ _ _ _ _ _)).drew 1)

theorem LiveFlagsAgree.imulFlags (h : Alike s t) (p : Int) : LiveFlagsAgree (imulFlags s p) (imulFlags t p) := by
  simp only [Machine.imulFlags, h.draw]
  exact h.liveFlags.status _ _ _ _ _ _

theorem execImul_alike (h : Alike s t) {src : Src} {dst : Option Cell} :
    ResultsAlike (execImul src dst s) (execImul src dst t) :=
  sourceOp_alike h fun x => by
    cases dst with
    | none =>
      simp only [imulOne, h.cell]
      exact .ok (((h.setEaxEdx _ _).withFlags (.imulFlags h _)).drew 4)
    | some c =>
      simp only [imulTwo, h.cell]
      exact .ok (((h.setCell c _).withFlags (.imulFlags h _)).drew 4)

theorem Alike.divide (h : Alike s t) (q m : Word) : Alike (divide q m s) (divide q m t) := by
  simp only [Machine.divide, divFlags, h.draw]
  exact ((h.setEaxEdx q m).withFlags (h.liveFlags.status _ _ _ _ _ _)).drew 6

theorem Alike.dividend (h : Alike s t) : dividend t = dividend s := by
  rw [Machine.dividend, h.cell, h.cell, Machine.dividend]

theorem execDiv_alike (h : Alike s t) {src : Src} : ResultsAlike (execDiv src s) (execDiv src t) :=
  sourceOp_alike h fun x => by
    simp only [h.dividend]
    split
    · exact .error _
    · split
      · exact .error _
      · exact .ok (h.divide _ _)

theorem execIdiv_alike (h : Alike s t) {src : Src} : ResultsAlike (execIdiv src s) (execIdiv src t) :=
  sourceOp_alike h fun x => by
    simp only [h.dividend]
    split
    · exact .error _
    · split
      · exact .error _
      · exact .ok (h.divide _ _)

theorem execMov_alike (h : Alike s t) {w : Width} {src : Src} {dst : Dst} :
    ResultsAlike (execMov w src dst s) (execMov w src dst t) := by
  have hflags : LiveFlagsAgree (movFlags s) (movFlags t) := by
    rw [movFlags, movFlags, h.cfg]
    split
    · exact h.liveFlags.clearScope _
    · exact h.liveFlags
  refine complete_alike h (.bind_same (h.srcVal w src) fun x => ?_)
  exact (h.writeDst (h.withFlags hflags) w dst x).bind fun _ _ hab => .ok hab.advance

theorem execPush_alike (h : Alike s t) {src : Src} : ResultsAlike (execPush src s) (execPush src t) :=
  sourceOp_alike h fun x => by
    rw [pushValue, pushValue, h.cfg, h.choose]
    split
    · exact (h.push32 _).map fun _ _ hab => hab.chose _
    · exact h.push32 x

theorem execPop_alike (h : Alike s t) {dst : Dst} : ResultsAlike (execPop dst s) (execPop dst t) :=
  plainOp_alike h (h.pop32.bind fun p q hpq => by
    obtain ⟨hval, hstate⟩ := hpq
    rw [popInto, popInto, h.cfg, h.choose, hval]
    split
    · exact .ok ((h.setCell _ _).chose _)
    · exact h.writeDst hstate .w32 dst p.1)

theorem execLahf_alike (h : Alike s t) : ResultsAlike (execLahf s) (execLahf t) := by
  rw [execLahf, execLahf, h.liveFlags.packLow]
  exact plainOp_alike h (.ok (h.writeReg _ _))

theorem execSahf_alike (h : Alike s t) : ResultsAlike (execSahf s) (execSahf t) := by
  rw [execSahf, execSahf, h.readReg]
  exact plainOp_alike h (.ok (h.withFlags (h.liveFlags.unpackLow _)))

theorem Alike.returnAddress (h : Alike s t) : returnAddress t = returnAddress s := by
  rw [Machine.returnAddress, h.pc, Machine.returnAddress]

theorem execCall_alike (h : Alike s t) {target : Text} : ResultsAlike (execCall target s) (execCall target t) := by
  rw [execCall, execCall, h.labels, h.cfg, h.returnAddress]
  split
  · exact complete_alike h ((h.push32 _).map fun _ _ hab => hab.withPc _)
  · split
    · exact complete_alike h (.error _)
    · exact complete_alike h ((h.push32 _).map fun _ _ hab => hab.advance)

theorem execRet_alike (h : Alike s t) {size : Option (BitVec 16)} : ResultsAlike (execRet size s) (execRet size t) := by
  refine complete_alike h (h.pop32.map fun p q hpq => ?_)
  obtain ⟨hval, hstate⟩ := hpq
  rw [hval, hstate.cell]
  exact (hstate.setCell _ _).withPc _

/-- The state and stack pointer `enter` carries, with alike states. -/
def PushesAlike (p q : State × Word) : Prop := Alike p.1 q.1 ∧ q.2 = p.2

theorem PushesAlike.enterPush {p q : State × Word} (h : PushesAlike p q) (v : Word) :
    Matches PushesAlike (enterPush v p) (enterPush v q) := by
  obtain ⟨hstate, hsp⟩ := h
  rw [Machine.enterPush, Machine.enterPush, hsp]
  exact (hstate.memWrite _ .w32 v).map fun _ _ hab => ⟨hab, rfl⟩

theorem PushesAlike.enterCopies {p q : State × Word} (h : PushesAlike p q) (n : Nat) (e : Word) :
    Matches PushesAlike (enterCopies n e p) (enterCopies n e q) := by
  induction n generalizing e p q with
  | zero => exact .ok h
  | succ n ih => exact .bind_same (h.1.memRead _ .w32) fun v => (h.enterPush v).bind fun _ _ hab => ih hab (e - 4)

theorem PushesAlike.enterDisplay {p q : State × Word} (h : PushesAlike p q) (l : Nat) (e frame : Word) :
    Matches PushesAlike (enterDisplay l e frame p) (enterDisplay l e frame q) := by
  cases l with
  | zero => exact .ok h
  | succ n => exact (h.enterCopies n e).bind fun _ _ hab => hab.enterPush frame

theorem execEnter_alike (h : Alike s t) {size : BitVec 16} {level : Option Byte} :
    ResultsAlike (execEnter size level s) (execEnter size level t) := by
  have hstart : PushesAlike (s, s.cell .esp) (t, s.cell .esp) := ⟨h, rfl⟩
  rw [execEnter, execEnter, h.cell, h.cell]
  refine plainOp_alike h ((hstart.enterPush _).bind fun _ _ hp => (hp.enterDisplay _ _ _).bind fun a b hab => .ok ?_)
  obtain ⟨hstate, hsp⟩ := hab
  rw [hsp]
  exact (hstate.setCell _ _).setCell _ _

theorem execLeave_alike (h : Alike s t) : ResultsAlike (execLeave s) (execLeave t) := by
  rw [execLeave, execLeave, h.cell]
  exact plainOp_alike h (.map_same (h.memRead _ .w32) fun v => (h.setCell _ _).setCell _ _)

/-! ## Every instruction -/

/-- Every instruction but `pushf` runs alike from alike states. -/
theorem exec_alike (i : Instr) (hi : i ∉ pushfSpellings) (h : Alike s t) : ResultsAlike (exec i s) (exec i t) := by
  have hf := h.liveFlags
  cases i
  case pushf | pushfl | pushfd => exact absurd (by decide) hi
  case add | sub => exact binaryOp_alike h fun _ _ => ⟨rfl, h.withFlags (hf.ofAlu _)⟩
  case adc | sbb =>
    refine binaryOp_alike h fun d x => ?_
    dsimp only
    rw [twoStep_alike h]
    exact ⟨rfl, (h.choseAlias _ _).withFlags (hf.ofAlu _)⟩
  case cmp => exact compareOp_alike h fun _ _ => h.withFlags (hf.ofAlu _)
  case inc | dec => exact unaryOp_alike h fun _ => ⟨rfl, h.withFlags (hf.ofAluKeepCf _)⟩
  case neg => exact unaryOp_alike h fun _ => ⟨rfl, h.withFlags (hf.negFlags _)⟩
  case and | or | xor => exact binaryOp_alike h fun _ _ => ⟨rfl, h.logicFlags _⟩
  case test => exact compareOp_alike h fun _ _ => h.logicFlags _
  case not => exact unaryOp_alike h fun _ => ⟨rfl, h⟩
  case mul => exact execMul_alike h
  case imul => exact execImul_alike h
  case div => exact execDiv_alike h
  case idiv => exact execIdiv_alike h
  case rol | ror | rcl | rcr => simp only [exec, execRol, execRor, execRcl, execRcr]; exact rotateOp_alike h
  case shl | sal | shr | sar => simp only [exec, execShl, execSal, execShr, execSar]; exact shiftOp_alike h
  case mov => exact execMov_alike h
  case push => exact execPush_alike h
  case pop => exact execPop_alike h
  case popf | popfl | popfd => exact popFlags_alike h
  case lahf => exact execLahf_alike h
  case sahf => exact execSahf_alike h
  case jmp => exact withTarget_alike h fun k => h.withPc k
  case call => exact execCall_alike h
  case ret => exact execRet_alike h
  case enter => exact execEnter_alike h
  case leave => exact execLeave_alike h
  case nop => exact plainOp_alike h (.ok h)
  case hlt => exact plainOp_alike h (.ok (h.withExit true))
  case cmpsb | cmpsw | cmpsd | cmpsl => exact cmpsOp_alike h
  case movsb | movsw | movsd | movsl => exact movsOp_alike h
  case scasb | scasw | scasd | scasl => exact scasOp_alike h
  case stosb | stosw | stosd | stosl => exact stosOp_alike h
  case lodsb | lodsw | lodsd | lodsl => exact lodsOp_alike h
  case jo | jno | jb | jc | jnae | jae | jnb | jnc | je | jz | jne | jnz
    | jbe | jna | ja | jnbe | js | jns | jp | jpe | jnp | jpo | jl | jnge
    | jge | jnl | jle | jng | jg | jnle => exact jumpIf_alike h
  case cmovo | cmovno | cmovb | cmovc | cmovnae | cmovae | cmovnb | cmovnc | cmove | cmovz | cmovne | cmovnz
    | cmovbe | cmovna | cmova | cmovnbe | cmovs | cmovns | cmovp | cmovpe | cmovnp | cmovpo | cmovl | cmovnge
    | cmovge | cmovnl | cmovle | cmovng | cmovg | cmovnle => exact cmovIf_alike h
  case seto | setno | setb | setc | setnae | setae | setnb | setnc | sete | setz | setne | setnz
    | setbe | setna | seta | setnbe | sets | setns | setp | setpe | setnp | setpo | setl | setnge
    | setge | setnl | setle | setng | setg | setnle => exact setIf_alike h

end

/-- Settles O14. -/
theorem storedOnlyFlagsUnread : Obligations.StoredOnlyFlagsUnread :=
  fun i _ _ hi hf => exec_alike i hi (.of_live hf)

end Sys2Proof.Machine
end

section
/-! Memory accesses and the memory frame (20_memory.md rules R82 to R86, R92): the bytes an access reads and writes, and the stores of
every instruction. The body of every instruction is followed once for its stores, in `exec_storing`. -/

namespace Sys2Proof.Machine

/-! ## Effective addresses and single accesses (R82 to R84, R86) -/

/-- Settles O20: the terms of `ea` one by one, and the four scales. -/
theorem effectiveAddress : Obligations.EffectiveAddress := by
  intro s off k b c sc
  have hscale : sc.factor = 1 ∨ sc.factor = 2 ∨ sc.factor = 4 ∨ sc.factor = 8 := by cases sc <;> decide
  simp [State.ea, State.baseValue, State.indexValue, hscale]

/-- A wide read is the little-endian sum of its bytes (R82). -/
theorem readBytes_eq_sum (m : Memory) (a n : Nat) :
    readBytes m a n = ((List.range n).map fun i => (readByte m (a + i)).toNat * 2 ^ (8 * i)).sum := by
  induction n generalizing a with
  | zero => rfl
  | succ n ih =>
    have hbyte : ∀ i, (readByte m (a + (i + 1))).toNat * 2 ^ (8 * (i + 1)) =
        256 * ((readByte m (a + 1 + i)).toNat * 2 ^ (8 * i)) := by
      intro i
      rw [Nat.add_right_comm a 1 i, Nat.add_assoc, Nat.mul_succ, Nat.pow_add]
      ring
    rw [readBytes, ih, ← List.sum_map_mul_left, List.range_succ_eq_map]
    simp [Function.comp_def, hbyte]

/-- A width's bytes hold its bits. -/
theorem two_pow_bits (w : Width) : 2 ^ w.bits = 256 ^ w.bytes := by cases w <;> rfl

/-- Settles O19: the bytes of a read and of a write, and the error of each. -/
theorem memoryAccess : Obligations.MemoryAccess := by
  intro s a w v hm
  refine ⟨fun hb => ⟨⟨_, State.memRead_of_inBounds hb, ?_⟩, _, State.memWrite_of_inBounds hb v, fun i hi => ?_, fun b hout => ?_⟩,
    fun hb => ⟨State.memRead_of_not_inBounds hb, State.memWrite_of_not_inBounds hb v⟩⟩
  · rw [BitVec.toNat_ofNat, two_pow_bits, Nat.mod_eq_of_lt (readBytes_lt _ _ _), readBytes_eq_sum]
  · rw [readByte_writeBytes_inside hm _ _ _ hi, BitVec.toNat_ofNat, Nat.pow_mul]
  · exact readByte_writeBytes_outside hm _ _ _ (by omega)

/-! ## Stores -/

/-- Memory `m'` is `m` after stores whose address and length are listed in `ps`. -/
inductive Stores (ps : List (Int × Nat)) (m : Memory) : Memory → Prop
  | none : Stores ps m m
  | store {m' : Memory} {a : Int} {n : Nat} (h : Stores ps m m') (hp : (a, n) ∈ ps) (ha : 0 ≤ a) (v : Nat) :
    Stores ps m (writeBytes m' a.toNat n v)

section

variable {ps : List (Int × Nat)} {m m' : Memory} {s t u : State}

theorem Stores.of_eq (h : m' = m) : Stores ps m m' := h ▸ .none

theorem Stores.wf (h : Stores ps m m') (hm : Memory.wf m = true) : Memory.wf m' = true := by
  induction h with
  | none => exact hm
  | store _ _ _ v ih => exact Memory.wf_writeBytes ih _ _ v

/-- A byte outside every store reads as before (R83). -/
theorem Stores.readByte_outside (h : Stores ps m m') (hm : Memory.wf m = true) {b : Nat}
    (hb : ∀ p ∈ ps, (b : Int) < p.1 ∨ p.1 + p.2 ≤ b) : readByte m' b = readByte m b := by
  induction h with
  | none => rfl
  | store h hp ha v ih =>
    have hout := hb _ hp
    rw [readByte_writeBytes_outside (h.wf hm) _ _ _ (by omega), ih]

theorem Stores.memWrite (h : Stores ps m t.mem) {a : Int} {w : Width} {v : BitVec w.bits} (hp : (a, w.bytes) ∈ ps)
    (hw : t.memWrite a w v = .ok u) : Stores ps m u.mem := by
  obtain ⟨⟨ha, -⟩, rfl⟩ := State.memWrite_ok hw
  exact h.store hp ha _

/-- Writing a destination stores to its bytes, or to none if it is a register. -/
theorem Stores.writeDst {w : Width} {dst : Dst} {v : BitVec w.bits} (h : Stores (dstBytes s w dst) m t.mem)
    (hw : s.writeDst w dst v t = .ok u) : Stores (dstBytes s w dst) m u.mem := by
  cases dst with
  | reg r => cases hw; exact h
  | mem x => exact h.memWrite (List.mem_singleton.mpr rfl) hw

theorem Stores.push32 {v : Word} (hp : s.push32 v = .ok u) : Stores [(pushSlot s, 4)] s.mem u.mem := by
  obtain ⟨x, hx, rfl⟩ := map_eq_ok.mp hp
  exact (Stores.none.memWrite (w := .w32) (List.mem_singleton.mpr rfl) hx :)

theorem mem_of_pop32 {p : Word × State} (hp : s.pop32 = .ok p) : p.2.mem = s.mem := by
  obtain ⟨v, -, rfl⟩ := map_eq_ok.mp hp
  rfl

end

/-! ## The pushes of `enter` (R371) -/

/-- The state and stack pointer `p` that `enter` carries after `k` pushes from `s`, each into a slot of `enter`. -/
def EnterPushed (s : State) (level : Option Byte) (k : Nat) (p : State × Word) : Prop :=
  p.2 = s.cell .esp - BitVec.ofNat 32 (4 * k) ∧ Stores (enterSlots s level) s.mem p.1.mem

section

variable {s : State} {level : Option Byte} {k : Nat} {p q : State × Word}

theorem stackSlot_mem_enterSlots (hk : k ≤ enterLevel level) : (stackSlot s k, 4) ∈ enterSlots s level :=
  List.mem_map.mpr ⟨k, List.mem_range.mpr (Nat.lt_succ_of_le hk), rfl⟩

theorem EnterPushed.enterPush (h : EnterPushed s level k p) (hk : k ≤ enterLevel level) {v : Word}
    (hq : enterPush v p = .ok q) : EnterPushed s level (k + 1) q := by
  obtain ⟨hsp, hstores⟩ := h
  obtain ⟨t, ht, rfl⟩ := map_eq_ok.mp hq
  have hsp' : p.2 - 4 = s.cell .esp - BitVec.ofNat 32 (4 * (k + 1)) := by
    rw [hsp, Nat.mul_succ, BitVec.ofNat_add, BitVec.sub_sub]
    rfl
  rw [hsp'] at ht
  exact ⟨hsp', hstores.memWrite (w := .w32) (stackSlot_mem_enterSlots hk) ht⟩

theorem EnterPushed.enterCopies {n : Nat} (h : EnterPushed s level k p) (hk : k + n ≤ enterLevel level + 1) {e : Word}
    (hq : enterCopies n e p = .ok q) : EnterPushed s level (k + n) q := by
  induction n generalizing k e p with
  | zero => cases hq; exact h
  | succ n ih =>
    obtain ⟨v, -, hq⟩ := bind_eq_ok.mp hq
    obtain ⟨r, hr, hq⟩ := bind_eq_ok.mp hq
    have hnext := ih (h.enterPush (by omega) hr) (by omega) hq
    rwa [Nat.add_right_comm] at hnext

/-- After the saved `ebp`, `enter` pushes one word for each level. -/
theorem EnterPushed.enterDisplay {e frame : Word} (h : EnterPushed s level 1 p)
    (hq : enterDisplay (enterLevel level) e frame p = .ok q) : EnterPushed s level (enterLevel level + 1) q := by
  cases hl : enterLevel level with
  | zero => rw [hl] at hq; cases hq; exact h
  | succ n =>
    rw [hl] at hq
    obtain ⟨r, hr, hq⟩ := bind_eq_ok.mp hq
    have hcopied := h.enterCopies (by omega) hr
    rw [Nat.add_comm] at hcopied
    exact hcopied.enterPush (by omega) hq

end

/-! ## The instruction shapes -/

/-- An instruction that begins in `s` has stored to places in `ps` only, however it ends. -/
def Storing (ps : List (Int × Nat)) (s : State) (r : Result) : Prop := ∀ t, r = .next t → Stores ps s.mem t.mem

section

variable {ps : List (Int × Nat)} {s : State}

theorem storing_complete {body : Except ErrorKind State} (h : ∀ t, body = .ok t → Stores ps s.mem t.mem) :
    Storing ps s (complete s body) := by
  intro t ht
  obtain ⟨e, -, hc⟩ | ⟨u, hu, hc⟩ := complete_cases s body
  · rw [hc] at ht
    cases ht
    exact .none
  · rw [hc] at ht
    cases ht
    simpa using h u hu

theorem binaryOp_storing {w : Width} {src : Src} {dst : Dst} {f : BitVec w.bits → BitVec w.bits → BitVec w.bits × State}
    (h : ∀ d x, (f d x).2.mem = s.mem) : Storing (dstBytes s w dst) s (binaryOp w src dst f s) := by
  refine storing_complete fun t ht => ?_
  obtain ⟨d, -, ht⟩ := bind_eq_ok.mp ht
  obtain ⟨x, -, ht⟩ := bind_eq_ok.mp ht
  obtain ⟨u, hu, ht⟩ := bind_eq_ok.mp ht
  cases ht
  exact (Stores.writeDst (.of_eq (h d x)) hu :)

theorem compareOp_storing {w : Width} {src : Src} {dst : Dst} {f : BitVec w.bits → BitVec w.bits → State}
    (h : ∀ d x, (f d x).mem = s.mem) : Storing ps s (compareOp w src dst f s) := by
  refine storing_complete fun t ht => ?_
  obtain ⟨d, -, ht⟩ := bind_eq_ok.mp ht
  obtain ⟨x, -, ht⟩ := bind_eq_ok.mp ht
  cases ht
  exact .of_eq (h d x)

theorem unaryOp_storing {w : Width} {dst : Dst} {f : BitVec w.bits → BitVec w.bits × State} (h : ∀ d, (f d).2.mem = s.mem) :
    Storing (dstBytes s w dst) s (unaryOp w dst f s) := by
  refine storing_complete fun t ht => ?_
  obtain ⟨d, -, ht⟩ := bind_eq_ok.mp ht
  obtain ⟨u, hu, ht⟩ := bind_eq_ok.mp ht
  cases ht
  exact (Stores.writeDst (.of_eq (h d)) hu :)

theorem sourceOp_storing {src : Src} {f : Word → Except ErrorKind State} (h : ∀ x t, f x = .ok t → Stores ps s.mem t.mem) :
    Storing ps s (sourceOp src f s) := by
  refine storing_complete fun t ht => ?_
  obtain ⟨x, -, ht⟩ := bind_eq_ok.mp ht
  obtain ⟨u, hu, ht⟩ := bind_eq_ok.mp ht
  cases ht
  exact h x u hu

theorem plainOp_storing {r : Except ErrorKind State} (h : ∀ t, r = .ok t → Stores ps s.mem t.mem) :
    Storing ps s (plainOp r s) :=
  storing_complete fun t ht => by
    obtain ⟨u, hu, rfl⟩ := map_eq_ok.mp ht
    exact h u hu

theorem plainOp_ok_storing {t : State} (h : t.mem = s.mem) : Storing ps s (plainOp (.ok t) s) :=
  plainOp_storing fun u hu => by cases hu; exact .of_eq h

/-! ## The families -/

theorem withTarget_storing {target : Text} {found : Nat → State} (h : ∀ k, (found k).mem = s.mem) :
    Storing ps s (withTarget target s found) := by
  unfold withTarget
  split
  · exact storing_complete fun t ht => by cases ht; exact .of_eq (h _)
  · split
    · exact storing_complete fun t ht => by cases ht
    · exact storing_complete fun t ht => by cases ht; exact .none

theorem jumpIf_storing {c : Cond} {target : Text} : Storing ps s (jumpIf c target s) :=
  withTarget_storing fun k => by split <;> rfl

theorem cmovIf_storing {c : Cond} {w : Width} {src : Src} {dst : Dst} :
    Storing (dstBytes s w dst) s (cmovIf c w src dst s) := by
  refine storing_complete fun t ht => ?_
  obtain ⟨x, -, ht⟩ := bind_eq_ok.mp ht
  obtain ⟨_, -, ht⟩ := bind_eq_ok.mp ht
  obtain ⟨u, hu, rfl⟩ := map_eq_ok.mp ht
  split at hu
  · exact (Stores.none.writeDst hu :)
  · cases hu
    exact .none

theorem setIf_storing {c : Cond} {dst : Dst} : Storing (dstBytes s .w8 dst) s (setIf c dst s) := by
  refine storing_complete fun t ht => ?_
  obtain ⟨u, hu, ht⟩ := bind_eq_ok.mp ht
  cases ht
  exact (Stores.none.writeDst hu :)

theorem cmpsOp_storing {w : Width} : Storing ps s (cmpsOp w s) := by
  refine storing_complete fun t ht => ?_
  obtain ⟨a, -, ht⟩ := bind_eq_ok.mp ht
  obtain ⟨b, -, ht⟩ := bind_eq_ok.mp ht
  cases ht
  exact .none

theorem movsOp_storing {w : Width} : Storing [(addrOf (s.cell .edi), w.bytes)] s (movsOp w s) := by
  refine storing_complete fun t ht => ?_
  obtain ⟨v, -, ht⟩ := bind_eq_ok.mp ht
  obtain ⟨u, hu, ht⟩ := bind_eq_ok.mp ht
  cases ht
  exact (Stores.none.memWrite (List.mem_singleton.mpr rfl) hu :)

theorem scasOp_storing {w : Width} : Storing ps s (scasOp w s) := by
  refine storing_complete fun t ht => ?_
  obtain ⟨b, -, ht⟩ := bind_eq_ok.mp ht
  cases ht
  exact .none

theorem stosOp_storing {w : Width} : Storing [(addrOf (s.cell .edi), w.bytes)] s (stosOp w s) := by
  refine storing_complete fun t ht => ?_
  obtain ⟨u, hu, ht⟩ := bind_eq_ok.mp ht
  cases ht
  exact (Stores.none.memWrite (List.mem_singleton.mpr rfl) hu :)

theorem lodsOp_storing {w : Width} : Storing ps s (lodsOp w s) := by
  refine storing_complete fun t ht => ?_
  obtain ⟨v, -, ht⟩ := bind_eq_ok.mp ht
  cases ht
  exact .none

theorem pushFlags_storing : Storing [(pushSlot s, 4)] s (pushFlags s) := plainOp_storing fun _ ht => .push32 ht

theorem popFlags_storing : Storing ps s (popFlags s) :=
  plainOp_storing fun t ht => by
    obtain ⟨p, hp, rfl⟩ := map_eq_ok.mp ht
    exact .of_eq (mem_of_pop32 hp)

/-! ## The meanings whose body is their own -/

theorem execMul_storing {src : Src} : Storing ps s (execMul src s) :=
  sourceOp_storing fun x t ht => by cases ht; exact .none

theorem execImul_storing {src : Src} {dst : Option Cell} : Storing ps s (execImul src dst s) :=
  sourceOp_storing fun x t ht => by
    cases dst with
    | none => cases ht; exact .none
    | some c => cases ht; exact .none

theorem execDiv_storing {src : Src} : Storing ps s (execDiv src s) :=
  sourceOp_storing fun x t ht => by
    dsimp only at ht
    split at ht
    · cases ht
    · split at ht
      · cases ht
      · cases ht; exact .none

theorem execIdiv_storing {src : Src} : Storing ps s (execIdiv src s) :=
  sourceOp_storing fun x t ht => by
    dsimp only at ht
    split at ht
    · cases ht
    · split at ht
      · cases ht
      · cases ht; exact .none

theorem execMov_storing {w : Width} {src : Src} {dst : Dst} : Storing (dstBytes s w dst) s (execMov w src dst s) := by
  refine storing_complete fun t ht => ?_
  obtain ⟨x, -, ht⟩ := bind_eq_ok.mp ht
  obtain ⟨u, hu, ht⟩ := bind_eq_ok.mp ht
  cases ht
  exact (Stores.writeDst (t := s.withFlags (movFlags s)) .none hu :)

theorem execPush_storing {src : Src} : Storing [(pushSlot s, 4)] s (execPush src s) :=
  sourceOp_storing fun x t ht => by
    unfold pushValue at ht
    split at ht
    · obtain ⟨u, hu, rfl⟩ := map_eq_ok.mp ht
      simpa using Stores.push32 hu
    · exact .push32 ht

theorem execPop_storing {dst : Dst} : Storing (dstBytes s .w32 dst) s (execPop dst s) :=
  plainOp_storing fun t ht => by
    obtain ⟨p, hp, ht⟩ := bind_eq_ok.mp ht
    unfold popInto at ht
    split at ht
    · cases ht
      exact .of_eq (by simp)
    · exact Stores.writeDst (.of_eq (mem_of_pop32 hp)) ht

theorem execCall_storing {target : Text} : Storing [(pushSlot s, 4)] s (execCall target s) := by
  have pushed : ∀ leave : State → State, (∀ u, (leave u).mem = u.mem) →
      Storing [(pushSlot s, 4)] s (complete s ((s.push32 (returnAddress s)).map leave)) := by
    refine fun leave hleave => storing_complete fun t ht => ?_
    obtain ⟨u, hu, rfl⟩ := map_eq_ok.mp ht
    exact hleave u ▸ Stores.push32 hu
  unfold execCall
  split
  · exact pushed _ fun _ => rfl
  · split
    · exact storing_complete fun t ht => by cases ht
    · exact pushed _ fun _ => rfl

theorem execRet_storing {size : Option (BitVec 16)} : Storing ps s (execRet size s) := by
  refine storing_complete fun t ht => ?_
  obtain ⟨p, hp, rfl⟩ := map_eq_ok.mp ht
  exact .of_eq (mem_of_pop32 hp)

theorem execEnter_storing {size : BitVec 16} {level : Option Byte} :
    Storing (enterSlots s level) s (execEnter size level s) :=
  plainOp_storing fun t ht => by
    obtain ⟨p, hp, ht⟩ := bind_eq_ok.mp ht
    obtain ⟨q, hq, ht⟩ := bind_eq_ok.mp ht
    cases ht
    have hstart : EnterPushed s level 0 (s, s.cell .esp) := ⟨by simp, .none⟩
    obtain ⟨-, hstores⟩ := (hstart.enterPush (Nat.zero_le _) hp).enterDisplay hq
    exact hstores

theorem execLeave_storing : Storing ps s (execLeave s) :=
  plainOp_storing fun t ht => by
    obtain ⟨v, -, rfl⟩ := map_eq_ok.mp ht
    exact .none

end

/-! ## Every instruction -/

theorem choseAlias_mem (src : Src) (dst : Dst) (s : State) : (choseAlias src dst s).mem = s.mem := by
  unfold choseAlias
  split
  · simp
  · rfl

/-- Every instruction stores only to the places listed for it. -/
theorem exec_storing (i : Instr) (s : State) : Storing (memWritten s i) s (exec i s) := by
  cases i
  case add | sub | and | or | xor => exact binaryOp_storing fun _ _ => rfl
  case adc | sbb => exact binaryOp_storing fun _ _ => choseAlias_mem _ _ s
  case cmp | test => exact compareOp_storing fun _ _ => rfl
  case inc | dec | neg | not => exact unaryOp_storing fun _ => rfl
  case mul => exact execMul_storing
  case imul => exact execImul_storing
  case div => exact execDiv_storing
  case idiv => exact execIdiv_storing
  case rol | ror | rcl | rcr | shl | sal | shr | sar => exact unaryOp_storing fun _ => rfl
  case mov => exact execMov_storing
  case push => exact execPush_storing
  case pop => exact execPop_storing
  case pushf | pushfl | pushfd => exact pushFlags_storing
  case popf | popfl | popfd => exact popFlags_storing
  case lahf | sahf | nop | hlt => exact plainOp_ok_storing rfl
  case jmp => exact withTarget_storing fun _ => rfl
  case call => exact execCall_storing
  case ret => exact execRet_storing
  case enter => exact execEnter_storing
  case leave => exact execLeave_storing
  case cmpsb | cmpsw | cmpsd | cmpsl => exact cmpsOp_storing
  case movsb | movsw | movsd | movsl => exact movsOp_storing
  case scasb | scasw | scasd | scasl => exact scasOp_storing
  case stosb | stosw | stosd | stosl => exact stosOp_storing
  case lodsb | lodsw | lodsd | lodsl => exact lodsOp_storing
  case jo | jno | jb | jc | jnae | jae | jnb | jnc | je | jz | jne | jnz
    | jbe | jna | ja | jnbe | js | jns | jp | jpe | jnp | jpo | jl | jnge
    | jge | jnl | jle | jng | jg | jnle => exact jumpIf_storing
  case cmovo | cmovno | cmovb | cmovc | cmovnae | cmovae | cmovnb | cmovnc | cmove | cmovz | cmovne | cmovnz
    | cmovbe | cmovna | cmova | cmovnbe | cmovs | cmovns | cmovp | cmovpe | cmovnp | cmovpo | cmovl | cmovnge
    | cmovge | cmovnl | cmovle | cmovng | cmovg | cmovnle => exact cmovIf_storing
  case seto | setno | setb | setc | setnae | setae | setnb | setnc | sete | setz | setne | setnz
    | setbe | setna | seta | setnbe | sets | setns | setp | setpe | setnp | setpo | setl | setnge
    | setge | setnl | setle | setng | setg | setnle => exact setIf_storing

/-- Settles O27. -/
theorem memoryFrame : Obligations.MemoryFrame :=
  fun i s t _ hm h hout => (exec_storing i s t h).readByte_outside hm hout

end Sys2Proof.Machine
end

section
/-! Accesses out of bounds (20_memory.md rule R84, 60_exceptions.md rule R402): the first access of an instruction that is not in
bounds halts the run. One lemma per instruction shape, then the spellings of each shape. -/

namespace Sys2Proof.Machine

/-! ## The instruction shapes -/

section

variable {s : State} {m : MemRef} {w : Width} {a : Int} {n : Nat}

theorem haltsOutside_complete {body : Except ErrorKind State}
    (h : ¬ s.inBounds a n → body = .error (.outOfBoundsMemoryAccess a n)) : HaltsOutside s a n (complete s body) :=
  fun hb => by rw [h hb]; rfl

theorem haltsOutside_plainOp {r : Except ErrorKind State}
    (h : ¬ s.inBounds a n → r = .error (.outOfBoundsMemoryAccess a n)) : HaltsOutside s a n (plainOp r s) :=
  haltsOutside_complete fun hb => by rw [h hb]; rfl

/-- The body's first access is a read. -/
theorem haltsOutside_memRead {next : BitVec w.bits → Except ErrorKind State} :
    HaltsOutside s a w.bytes (complete s (s.memRead a w >>= next)) :=
  haltsOutside_complete fun hb => by rw [State.memRead_of_not_inBounds hb]; rfl

/-- The body's first access is a write. -/
theorem haltsOutside_memWrite {v : BitVec w.bits} {next : State → Except ErrorKind State} :
    HaltsOutside s a w.bytes (complete s (s.memWrite a w v >>= next)) :=
  haltsOutside_complete fun hb => by rw [State.memWrite_of_not_inBounds hb]; rfl

/-- The one Memory operand of a two-operand instruction is `m`, and the other operand can be read (R122). -/
def OneMemory (s : State) (w : Width) (src : Src) (dst : Dst) (m : MemRef) : Prop :=
  (src = .mem m ∧ ∃ d, s.dstVal w dst = .ok d) ∨ (dst = .mem m ∧ ∃ x, s.srcVal w src = .ok x)

theorem oneMemory_of_not_bothMem {src : Src} {dst : Dst} (h : bothMem src dst = false) (hm : src = .mem m ∨ dst = .mem m) :
    OneMemory s w src dst m := by
  rcases hm with rfl | rfl
  · cases dst with
    | reg r => exact .inl ⟨rfl, _, rfl⟩
    | mem m' => cases h
  · refine .inr ⟨rfl, srcVal_isOk_of_not_mem s w fun m' hsrc => ?_⟩
    rw [hsrc] at h
    cases h

/-- Writing a Memory operand out of bounds, in a state with the parameters of the one it was resolved in. -/
theorem writeDst_of_not_inBounds {t : State} (hc : t.cfg = s.cfg) (hb : ¬ s.inBounds (s.ea m) w.bytes) (v : BitVec w.bits) :
    s.writeDst w (.mem m) v t = .error (.outOfBoundsMemoryAccess (s.ea m) w.bytes) :=
  State.memWrite_of_not_inBounds (by rwa [State.inBounds, hc]) v

variable {src : Src} {dst : Dst}

theorem binaryOp_haltsOutside {f : BitVec w.bits → BitVec w.bits → BitVec w.bits × State} (h : OneMemory s w src dst m) :
    HaltsOutside s (s.ea m) w.bytes (binaryOp w src dst f s) := by
  rcases h with ⟨rfl, d, hd⟩ | ⟨rfl, -⟩
  · exact fun hb => binaryOp_src_error hd (State.memRead_of_not_inBounds hb)
  · exact fun hb => binaryOp_dst_error (State.memRead_of_not_inBounds hb)

theorem compareOp_haltsOutside {f : BitVec w.bits → BitVec w.bits → State} (h : OneMemory s w src dst m) :
    HaltsOutside s (s.ea m) w.bytes (compareOp w src dst f s) := by
  rcases h with ⟨rfl, d, hd⟩ | ⟨rfl, -⟩
  · exact fun hb => compareOp_src_error hd (State.memRead_of_not_inBounds hb)
  · exact fun hb => compareOp_dst_error (State.memRead_of_not_inBounds hb)

/-- `mov` reads its source, then writes its destination. -/
theorem execMov_haltsOutside (h : OneMemory s w src dst m) : HaltsOutside s (s.ea m) w.bytes (execMov w src dst s) := by
  rcases h with ⟨rfl, -⟩ | ⟨rfl, x, hx⟩
  · exact haltsOutside_memRead
  · refine haltsOutside_complete fun hb => ?_
    rw [hx, ok_bind, writeDst_of_not_inBounds (s := s) (t := s.withFlags (movFlags s)) rfl hb x, error_bind]

/-- `cmov` reads its source, then checks its destination. -/
theorem cmovIf_haltsOutside {c : Cond} (h : OneMemory s w src dst m) :
    HaltsOutside s (s.ea m) w.bytes (cmovIf c w src dst s) := by
  rcases h with ⟨rfl, -⟩ | ⟨rfl, x, hx⟩
  · exact haltsOutside_memRead
  · refine haltsOutside_complete fun hb => ?_
    have hcheck : s.checkView w (s.dstView (.mem m)) = .error (.outOfBoundsMemoryAccess (s.ea m) w.bytes) := by
      rw [State.checkView, State.dstView, State.val, State.memRead_of_not_inBounds hb, error_map]
    rw [hx, ok_bind, hcheck, error_bind]

theorem unaryOp_haltsOutside {f : BitVec w.bits → BitVec w.bits × State} :
    HaltsOutside s (s.ea m) w.bytes (unaryOp w (.mem m) f s) :=
  haltsOutside_memRead

theorem sourceOp_haltsOutside {f : Word → Except ErrorKind State} :
    HaltsOutside s (s.ea m) 4 (sourceOp (.mem m) f s) :=
  haltsOutside_memRead (w := .w32)

theorem setIf_haltsOutside {c : Cond} : HaltsOutside s (s.ea m) 1 (setIf c (.mem m) s) :=
  haltsOutside_memWrite (w := .w8)

/-! ## The stack -/

theorem execPush_haltsOutside {x : Word} (hx : s.srcVal .w32 src = .ok x) :
    HaltsOutside s (pushSlot s) 4 (execPush src s) := by
  refine fun hb => sourceOp_error hx ?_
  unfold pushValue
  split
  · rw [push32_of_not_inBounds _ hb, error_map]
  · exact push32_of_not_inBounds _ hb

theorem pushFlags_haltsOutside : HaltsOutside s (pushSlot s) 4 (pushFlags s) :=
  haltsOutside_plainOp fun hb => push32_of_not_inBounds _ hb

theorem execCall_haltsOutside {target : Text} (h : assoc target s.labels ≠ none) :
    HaltsOutside s (pushSlot s) 4 (execCall target s) := by
  obtain ⟨k, hk⟩ := Option.ne_none_iff_exists'.mp h
  rw [execCall, hk]
  exact haltsOutside_complete fun hb => by rw [push32_of_not_inBounds _ hb, error_map]

/-- The first slot of `enter` is the next push's. -/
theorem execEnter_haltsOutside {size : BitVec 16} {level : Option Byte} :
    HaltsOutside s (pushSlot s) 4 (execEnter size level s) :=
  haltsOutside_plainOp fun hb => by
    have hpush : enterPush (s.cell .ebp) (s, s.cell .esp) = .error (.outOfBoundsMemoryAccess (pushSlot s) 4) := by
      rw [enterPush, ← pushSlot, State.memWrite_of_not_inBounds (w := .w32) hb, error_map]
    simp only [hpush, error_bind]

theorem execPop_haltsOutside : HaltsOutside s (addrOf (s.cell .esp)) 4 (execPop dst s) :=
  haltsOutside_plainOp fun hb => by rw [pop32_of_not_inBounds hb, error_bind]

/-- After the word at `esp` is read, `pop` writes its destination, at the address resolved before `esp` moved (R89). -/
theorem execPop_mem_haltsOutside (h : s.inBounds (addrOf (s.cell .esp)) 4) :
    HaltsOutside s (s.ea m) 4 (execPop (.mem m) s) := by
  obtain ⟨v, hv⟩ := wordAt_of_inBounds h
  refine haltsOutside_plainOp fun hb => ?_
  rw [pop32_of_wordAt hv, ok_bind, popInto, if_neg (by simp)]
  exact writeDst_of_not_inBounds (s := s) (w := .w32) (t := s.setCell .esp (s.cell .esp + 4)) rfl hb v

theorem popFlags_haltsOutside : HaltsOutside s (addrOf (s.cell .esp)) 4 (popFlags s) :=
  haltsOutside_plainOp fun hb => by rw [pop32_of_not_inBounds hb, error_map]

theorem execRet_haltsOutside {size : Option (BitVec 16)} : HaltsOutside s (addrOf (s.cell .esp)) 4 (execRet size s) :=
  haltsOutside_complete fun hb => by rw [pop32_of_not_inBounds hb, error_map]

theorem execLeave_haltsOutside : HaltsOutside s (addrOf (s.cell .ebp)) 4 (execLeave s) :=
  haltsOutside_plainOp fun hb => by rw [State.memRead_of_not_inBounds (w := .w32) hb, error_map]

/-! ## The string instructions -/

/-- After the element at `esi` is read, `cmps` reads the one at `edi`. -/
theorem cmpsOp_edi_haltsOutside (h : s.inBounds (addrOf (s.cell .esi)) w.bytes) :
    HaltsOutside s (addrOf (s.cell .edi)) w.bytes (cmpsOp w s) := by
  rw [cmpsOp, element, State.memRead_of_inBounds h, ok_bind]
  exact haltsOutside_memRead

/-- After the element at `esi` is read, `movs` writes the one at `edi`. -/
theorem movsOp_edi_haltsOutside (h : s.inBounds (addrOf (s.cell .esi)) w.bytes) :
    HaltsOutside s (addrOf (s.cell .edi)) w.bytes (movsOp w s) := by
  rw [movsOp, element, State.memRead_of_inBounds h, ok_bind]
  exact haltsOutside_memWrite

end

/-! ## The spellings -/

/-- A well-formed two-operand instruction has at most one Memory operand (R122). -/
theorem not_bothMem_of_wfBinary {cfg : Config} {w : Width} {src : Src} {dst : Dst} (h : wfBinary cfg w src dst = true) :
    bothMem src dst = false := by
  simp only [wfBinary, Bool.and_eq_true, Bool.not_eq_true'] at h
  obtain ⟨⟨⟨-, hboth⟩, -⟩, -⟩ := h
  exact hboth

/-- Each spelling of `cmov<cc>` is well-formed as its operands are, and runs the shared operation on its condition. -/
theorem cmovSpellings_spec : ∀ p ∈ cmovSpellings, ∀ (cfg : Config) (w : Width) (src : Src) (dst : Dst) (s : State),
    (p.2 w src dst).wellFormed cfg = wfCmov cfg w src dst ∧ exec (p.2 w src dst) s = cmovIf p.1 w src dst s := by
  simp only [cmovSpellings, List.forall_mem_cons, List.not_mem_nil, IsEmpty.forall_iff, implies_true, and_true]
  and_intros <;> exact fun _ _ _ _ _ => ⟨rfl, rfl⟩

/-- Each spelling of `set<cc>` runs the shared operation on its condition. -/
theorem exec_setSpellings : ∀ p ∈ setSpellings, ∀ (dst : Dst) (s : State), exec (p.2 dst) s = setIf p.1 dst s := by
  simp only [setSpellings, List.forall_mem_cons, List.not_mem_nil, IsEmpty.forall_iff, implies_true, and_true]
  and_intros <;> exact fun _ _ => rfl

theorem cmov_haltsOutside {s : State} {w : Width} {src : Src} {dst : Dst} {m : MemRef} (hm : src = .mem m ∨ dst = .mem m) :
    ∀ p ∈ cmovSpellings, (p.2 w src dst).wellFormed s.cfg = true →
      HaltsOutside s (s.ea m) w.bytes (exec (p.2 w src dst) s) := by
  intro p hp hwf
  obtain ⟨hform, hexec⟩ := cmovSpellings_spec p hp s.cfg w src dst s
  rw [hform, wfCmov, Bool.and_eq_true] at hwf
  rw [hexec]
  exact cmovIf_haltsOutside (oneMemory_of_not_bothMem (not_bothMem_of_wfBinary hwf.1) hm)

theorem binarySpellings_haltsOutside {s : State} {w : Width} {src : Src} {dst : Dst} {m : MemRef}
    (hm : src = .mem m ∨ dst = .mem m) : ∀ mk ∈ binarySpellings, (mk w src dst).wellFormed s.cfg = true →
      HaltsOutside s (s.ea m) w.bytes (exec (mk w src dst) s) := by
  have one : wfBinary s.cfg w src dst = true → OneMemory s w src dst m := fun hwf =>
    oneMemory_of_not_bothMem (not_bothMem_of_wfBinary hwf) hm
  refine List.forall_mem_append.mpr ⟨?_, List.forall_mem_map.mpr (cmov_haltsOutside hm)⟩
  simp only [List.forall_mem_cons]
  exact ⟨binaryOp_haltsOutside ∘ one, binaryOp_haltsOutside ∘ one, binaryOp_haltsOutside ∘ one, binaryOp_haltsOutside ∘ one,
    compareOp_haltsOutside ∘ one, binaryOp_haltsOutside ∘ one, binaryOp_haltsOutside ∘ one, binaryOp_haltsOutside ∘ one,
    compareOp_haltsOutside ∘ one, execMov_haltsOutside ∘ one, by simp⟩

theorem unarySpellings_haltsOutside {s : State} {m : MemRef} {w : Width} :
    ∀ mk ∈ unarySpellings, HaltsOutside s (s.ea m) w.bytes (exec (mk w (.mem m)) s) := by
  simp only [unarySpellings, List.forall_mem_cons]
  exact ⟨unaryOp_haltsOutside, unaryOp_haltsOutside, unaryOp_haltsOutside, unaryOp_haltsOutside, by simp⟩

theorem shiftSpellings_haltsOutside {s : State} {m : MemRef} {w : Width} {count : Count} :
    ∀ mk ∈ rotateSpellings.map Prod.fst ++ shiftSpellings.map Prod.fst,
      HaltsOutside s (s.ea m) w.bytes (exec (mk w count (.mem m)) s) := by
  simp only [rotateSpellings, shiftSpellings, List.map_cons, List.map_nil, List.cons_append, List.nil_append,
    List.forall_mem_cons, List.not_mem_nil, IsEmpty.forall_iff, implies_true, and_true]
  and_intros <;> exact unaryOp_haltsOutside

theorem setSpellings_haltsOutside {s : State} {m : MemRef} :
    ∀ mk ∈ setSpellings.map Prod.snd, HaltsOutside s (s.ea m) 1 (exec (mk (.mem m)) s) :=
  List.forall_mem_map.mpr fun p hp => by
    rw [exec_setSpellings p hp]
    exact setIf_haltsOutside

/-- The instructions with a 32-bit Memory source. -/
theorem sources_haltsOutside {s : State} {m : MemRef} :
    ∀ i ∈ [Instr.mul (.mem m), .div (.mem m), .idiv (.mem m), .push (.mem m)], HaltsOutside s (s.ea m) 4 (exec i s) := by
  simp only [List.forall_mem_cons]
  exact ⟨sourceOp_haltsOutside, sourceOp_haltsOutside, sourceOp_haltsOutside, sourceOp_haltsOutside, by simp⟩

theorem pushfSpellings_haltsOutside {s : State} : ∀ i ∈ pushfSpellings, HaltsOutside s (pushSlot s) 4 (exec i s) := by
  simp only [pushfSpellings, List.forall_mem_cons]
  exact ⟨pushFlags_haltsOutside, pushFlags_haltsOutside, pushFlags_haltsOutside, by simp⟩

theorem popfSpellings_haltsOutside {s : State} :
    ∀ i ∈ popfSpellings, HaltsOutside s (addrOf (s.cell .esp)) 4 (exec i s) := by
  simp only [popfSpellings, List.forall_mem_cons]
  exact ⟨popFlags_haltsOutside, popFlags_haltsOutside, popFlags_haltsOutside, by simp⟩

/-- The spellings of a string operation run it at their width. -/
theorem exec_stringSpellings (s : State) :
    (∀ p ∈ cmpsSpellings, exec p.2 s = cmpsOp p.1 s) ∧ (∀ p ∈ movsSpellings, exec p.2 s = movsOp p.1 s) ∧
      (∀ p ∈ scasSpellings, exec p.2 s = scasOp p.1 s) ∧ (∀ p ∈ stosSpellings, exec p.2 s = stosOp p.1 s) ∧
      ∀ p ∈ lodsSpellings, exec p.2 s = lodsOp p.1 s := by
  simp only [cmpsSpellings, movsSpellings, scasSpellings, stosSpellings, lodsSpellings, List.forall_mem_cons, List.not_mem_nil,
    IsEmpty.forall_iff, implies_true, and_true]
  and_intros <;> rfl

theorem twoElements_haltsOutside {s : State} : ∀ p ∈ cmpsSpellings ++ movsSpellings,
    HaltsOutside s (addrOf (s.cell .esi)) p.1.bytes (exec p.2 s) ∧
      (s.inBounds (addrOf (s.cell .esi)) p.1.bytes → HaltsOutside s (addrOf (s.cell .edi)) p.1.bytes (exec p.2 s)) := by
  obtain ⟨hcmps, hmovs, -⟩ := exec_stringSpellings s
  refine List.forall_mem_append.mpr ⟨fun p hp => ?_, fun p hp => ?_⟩
  · rw [hcmps p hp]
    exact ⟨haltsOutside_memRead, cmpsOp_edi_haltsOutside⟩
  · rw [hmovs p hp]
    exact ⟨haltsOutside_memRead, movsOp_edi_haltsOutside⟩

theorem ediElement_haltsOutside {s : State} : ∀ p ∈ scasSpellings ++ stosSpellings,
    HaltsOutside s (addrOf (s.cell .edi)) p.1.bytes (exec p.2 s) := by
  obtain ⟨-, -, hscas, hstos, -⟩ := exec_stringSpellings s
  refine List.forall_mem_append.mpr ⟨fun p hp => ?_, fun p hp => ?_⟩
  · rw [hscas p hp]
    exact haltsOutside_memRead
  · rw [hstos p hp]
    exact haltsOutside_memWrite

theorem lods_haltsOutside {s : State} : ∀ p ∈ lodsSpellings,
    HaltsOutside s (addrOf (s.cell .esi)) p.1.bytes (exec p.2 s) := by
  obtain ⟨-, -, -, -, hlods⟩ := exec_stringSpellings s
  intro p hp
  rw [hlods p hp]
  exact haltsOutside_memRead

/-- Settles O60: the operands, then the stack, then the string elements. -/
theorem outOfBoundsAccess : Obligations.OutOfBoundsAccess := by
  refine ⟨fun mk hmk s w src dst m hwf hm => binarySpellings_haltsOutside hm mk hmk hwf, fun s m => ⟨?_, ?_, ?_, ?_, ?_, ?_, ?_⟩⟩
  · exact fun mk hmk w => unarySpellings_haltsOutside mk hmk
  · exact fun mk hmk w count => shiftSpellings_haltsOutside mk hmk
  · exact setSpellings_haltsOutside
  · exact sources_haltsOutside
  · exact fun dst => sourceOp_haltsOutside
  · exact execPop_mem_haltsOutside
  · exact ⟨fun src x => execPush_haltsOutside, pushfSpellings_haltsOutside, fun target => execCall_haltsOutside,
      fun size level => execEnter_haltsOutside, fun dst => execPop_haltsOutside, popfSpellings_haltsOutside,
      fun size => execRet_haltsOutside, execLeave_haltsOutside, twoElements_haltsOutside, ediElement_haltsOutside,
      lods_haltsOutside⟩

end Sys2Proof.Machine
end

section
/-! The decoder read in both directions (30_encoding.md): what a spelling and an encoded operand decode to, and what a decoded operand
satisfies. -/

namespace Sys2Proof

/-! ## Exact spellings (R34, R118, R131) -/

/-- An entry found under a spelling is an entry of the table. -/
theorem mem_of_assoc_eq_some {α : Type} {k : Text} {l : List (Text × α)} {v : α} (h : assoc k l = some v) : (k, v) ∈ l := by
  induction l with
  | nil => cases h
  | cons p l ih =>
    obtain ⟨k', v'⟩ := p
    rw [assoc] at h
    split at h
    · cases h
      subst_vars
      exact List.mem_cons_self
    · exact List.mem_cons_of_mem _ (ih h)

/-- In a table without clashing spellings every entry is found. -/
theorem assoc_eq_some_of_mem {α : Type} {k : Text} {l : List (Text × α)} {v : α} (hl : (l.map Prod.fst).Nodup)
    (h : (k, v) ∈ l) : assoc k l = some v := by
  induction l with
  | nil => cases h
  | cons p l ih =>
    obtain ⟨k', v'⟩ := p
    obtain ⟨hnew, hl⟩ := List.nodup_cons.mp hl
    rcases List.mem_cons.mp h with heq | htail
    · cases heq
      exact if_pos rfl
    · have hne : k ≠ k' := by
        rintro rfl
        exact hnew (List.mem_map.mpr ⟨_, htail, rfl⟩)
      exact (if_neg hne).trans (ih hl htail)

/-! ## Register spellings (R32, R33) -/

/-- The parts of `Config.spellingsClear` a proof uses. -/
structure Config.Clear (cfg : Config) : Prop where
  extraNew : ∀ p ∈ cfg.extraLowByteNames, assoc p.1 regNames = none
  extraNodup : (cfg.extraLowByteNames.map Prod.fst).Nodup
  exitSome : cfg.exitMnemonics ≠ []
  exitNew : ∀ m ∈ cfg.exitMnemonics, assoc m rows = none ∧ lookupSuffixed m = none

theorem Config.clear_of_spellingsClear {cfg : Config} (h : cfg.spellingsClear = true) : cfg.Clear := by
  simp only [Config.spellingsClear, Bool.and_eq_true, decide_eq_true_eq, List.all_eq_true, Option.isNone_iff_eq_none,
    Bool.not_eq_true', List.isEmpty_eq_false_iff] at h
  obtain ⟨⟨⟨⟨-, hnew⟩, hnodup⟩, hsome⟩, hexit⟩ := h
  exact ⟨hnew, hnodup, hsome, hexit⟩

theorem lookupReg_cellName (cfg : Config) (c : Cell) : lookupReg cfg (cellName c) = some (.r32 c) := by cases c <;> rfl

/-- A low byte some extra name is bound to is found under the name the encoder gives it. -/
theorem lookupReg_extraName {cfg : Config} (hc : cfg.Clear) {c : Cell}
    (h : (cfg.extraLowByteNames.any (·.2.cell = c)) = true) : lookupReg cfg (extraName cfg c) = some (.lo8 c) := by
  obtain ⟨q, hq, hqc⟩ := List.any_eq_true.mp h
  have hsome : (cfg.extraLowByteNames.find? fun p => p.2.cell = c).isSome := List.find?_isSome.mpr ⟨q, hq, hqc⟩
  obtain ⟨p, hp⟩ := Option.isSome_iff_exists.mp hsome
  have hmem := List.mem_of_find?_eq_some hp
  have hcell : p.2.cell = c := by simpa using List.find?_some hp
  rw [extraName, hp, lookupReg, hc.extraNew p hmem, assoc_eq_some_of_mem hc.extraNodup hmem]
  exact congrArg (some ∘ Reg.lo8) hcell

theorem lookupReg_regName {cfg : Config} (hc : cfg.Clear) {r : Reg} (h : r.spelled cfg = true) :
    lookupReg cfg (regName cfg r) = some r := by
  cases r with
  | r32 c => exact lookupReg_cellName cfg c
  | r16 c => cases c <;> rfl
  | lo8 cell =>
    cases cell
    case eax | ecx | edx | ebx => rfl
    case esp | ebp | esi | edi => exact lookupReg_extraName hc h
  | hi8 high => cases high <;> rfl

theorem lookupReg_spelled {cfg : Config} {n : Text} {r : Reg} (h : lookupReg cfg n = some r) : r.spelled cfg = true := by
  have listed : ∀ p ∈ regNames, p.2.spelled cfg = true := by simp [regNames, Reg.spelled]
  unfold lookupReg at h
  split at h
  · cases h
    exact listed _ (mem_of_assoc_eq_some ‹_›)
  · obtain ⟨c, hc, rfl⟩ := Option.map_eq_some_iff.mp h
    have bound : (cfg.extraLowByteNames.any (·.2.cell = c.cell)) = true :=
      List.any_eq_true.mpr ⟨_, mem_of_assoc_eq_some hc, decide_eq_true rfl⟩
    cases c <;> exact bound

/-! ## Mnemonics (R118, R119, R124, R130) -/

theorem decodeMnemonic_of_assoc {m : Text} {row : Row} (cfg : Config) (h : assoc m rows = some row) :
    decodeMnemonic cfg m = .ok (row, none) := by
  rw [decodeMnemonic, h]

theorem suffixWidth_suffixChar (w : Width) : suffixWidth (suffixChar w) = some w := by cases w <;> rfl

theorem lookupSuffixed_suffixed {m : Text} {row : Row} (h : assoc m rows = some row) (hs : row.suffixable = true) (w : Width) :
    lookupSuffixed (suffixed m w) = some (row, w) := by
  rw [lookupSuffixed, suffixed, List.getLast?_concat]
  simp only [suffixWidth_suffixChar, List.dropLast_concat, h, hs, if_true]

/-- No suffixed spelling is an exact spelling of the map, so that exact spellings go first (R118) hides none. -/
theorem suffixed_spellings_new (w : Width) :
    (rows.all fun p => !p.2.suffixable || (assoc (suffixed p.1 w) rows).isNone) = true := by
  cases w <;> decide

theorem assoc_suffixed {m : Text} {row : Row} (h : assoc m rows = some row) (hs : row.suffixable = true) (w : Width) :
    assoc (suffixed m w) rows = none := by
  have hall := List.all_eq_true.mp (suffixed_spellings_new w) _ (mem_of_assoc_eq_some h)
  simpa [hs] using hall

theorem decodeMnemonic_suffixed {cfg : Config} (hc : cfg.Clear) {m : Text} {row : Row} (h : assoc m rows = some row)
    (hs : row.suffixable = true) (w : Width) : decodeMnemonic cfg (suffixed m w) = .ok (row, some w) := by
  have hlookup := lookupSuffixed_suffixed h hs w
  have hexit : suffixed m w ∉ cfg.exitMnemonics := fun hm => by
    obtain ⟨-, hnone⟩ := hc.exitNew _ hm
    rw [hlookup] at hnone
    cases hnone
  rw [decodeMnemonic, assoc_suffixed h hs w, hlookup]
  exact if_neg hexit

theorem decodeMnemonic_exit {cfg : Config} {m : Text} (h : assoc m rows = none) (hm : m ∈ cfg.exitMnemonics) :
    decodeMnemonic cfg m = .ok (.plain .hlt, none) := by
  rw [decodeMnemonic, h]
  exact if_pos hm

theorem exitName_mem {cfg : Config} (hc : cfg.Clear) : exitName cfg ∈ cfg.exitMnemonics := by
  obtain ⟨m, ms, h⟩ := List.exists_cons_of_ne_nil hc.exitSome
  rw [exitName, h]
  exact List.mem_cons_self

theorem lookupSuffixed_ok {m : Text} {row : Row} {w : Width} (h : lookupSuffixed m = some (row, w)) :
    (∃ base, (base, row) ∈ rows) ∧ row.suffixable = true := by
  unfold lookupSuffixed at h
  split at h
  · cases h
  · split at h
    · cases h
    · split at h
      · cases h
      · split at h
        · cases h
          exact ⟨⟨_, mem_of_assoc_eq_some ‹_›⟩, ‹_›⟩
        · cases h

/-- A mnemonic decodes to a row of the map, with a suffix only if the row takes one, or to the exit instruction. -/
theorem decodeMnemonic_ok {cfg : Config} {m : Text} {row : Row} {suffix : Option Width}
    (h : decodeMnemonic cfg m = .ok (row, suffix)) :
    (∃ base, (base, row) ∈ rows) ∧ (suffix = none ∨ row.suffixable = true) ∨ row = .plain .hlt := by
  unfold decodeMnemonic at h
  split at h
  · cases h
    exact .inl ⟨⟨_, mem_of_assoc_eq_some ‹_›⟩, .inl rfl⟩
  · split at h
    · cases h
      exact .inr rfl
    · split at h
      · cases h
        obtain ⟨hrow, hs⟩ := lookupSuffixed_ok ‹_›
        exact .inl ⟨hrow, .inr hs⟩
      · split at h <;> cases h

/-- Stages 2 to 4 of R165 are the row's. -/
theorem decode_of_mnemonic {cfg : Config} {m : Text} {row : Row} {suffix : Option Width}
    (h : decodeMnemonic cfg m = .ok (row, suffix)) (ops : List Operand) :
    decode cfg ⟨m, ops⟩ = row.build cfg suffix ops := by
  rw [decode, h]

theorem decode_ok {cfg : Config} {r : Record} {i : Instr} (h : decode cfg r = .ok i) :
    ∃ row suffix, decodeMnemonic cfg r.mnemonic = .ok (row, suffix) ∧ row.build cfg suffix r.operands = .ok i := by
  unfold decode at h
  split at h
  · cases h
  · exact ⟨_, _, ‹_›, h⟩

/-! ## Operands (R86, R87, R111, R122) -/

theorem admitOperand_of_resolve {α : Type} {cfg : Config} {kind : Opnd → Option α} {op : Operand} {o : Opnd} {a : α}
    (hu : op.unknown cfg = none) (hr : op.resolve cfg = some o) (hk : kind o = some a) : admitOperand cfg kind op = .ok a := by
  rw [admitOperand, hu, hr, Option.bind_some, hk]

theorem admitOperand_ok {α : Type} {cfg : Config} {kind : Opnd → Option α} {op : Operand} {a : α}
    (h : admitOperand cfg kind op = .ok a) : ∃ o, op.resolve cfg = some o ∧ kind o = some a := by
  unfold admitOperand at h
  split at h
  · cases h
  · split at h
    · cases h
      exact Option.bind_eq_some_iff.mp ‹_›
    · cases h

theorem unknownName_of_lookupReg {cfg : Config} {n : Text} {r : Reg} (h : lookupReg cfg n = some r) :
    unknownName cfg n = none := by
  rw [unknownName, h]

theorem unknownName_of_none {cfg : Config} {n : Text} (h : lookupReg cfg n = none) : unknownName cfg n = some n := by
  rw [unknownName, h]

/-- An operand whose register spelling does not resolve (R34). -/
theorem admitOperand_unknown {α : Type} {cfg : Config} {n : Text} (kind : Opnd → Option α) (h : lookupReg cfg n = none) :
    admitOperand cfg kind (.register n) = .error (.unknownRegister n) := by
  rw [admitOperand, Operand.unknown, unknownName_of_none h]

theorem admitOperand_register {α : Type} {cfg : Config} {n : Text} {r : Reg} {kind : Opnd → Option α} {a : α}
    (h : lookupReg cfg n = some r) (hk : kind (.reg r) = some a) : admitOperand cfg kind (.register n) = .ok a :=
  admitOperand_of_resolve (unknownName_of_lookupReg h) (by rw [Operand.resolve, h, Option.map_some]) hk

theorem scale_ofNat?_factor (sc : Scale) : Scale.ofNat? sc.factor = some sc := by cases sc <;> rfl

theorem unknown_index (cfg : Config) (i : Option Cell) : (i.map cellName).bind (unknownName cfg) = none := by
  cases i with
  | none => rfl
  | some c => exact unknownName_of_lookupReg (lookupReg_cellName cfg c)

theorem resolveIndex_cellName (cfg : Config) (i : Option Cell) : resolveIndex cfg (i.map cellName) = some i := by
  cases i with
  | none => rfl
  | some c => rw [Option.map_some, resolveIndex, lookupReg_cellName]; rfl

theorem unknown_encodeMem (cfg : Config) (m : MemRef) : (encodeMem m).unknown cfg = none := by
  obtain ⟨base, offset, scale, index⟩ := m
  cases base with
  | absent => exact unknown_index cfg index
  | literal k => exact unknown_index cfg index
  | register c =>
    rw [encodeMem, Operand.unknown, Operand.unknown, unknownName_of_lookupReg (lookupReg_cellName cfg c)]
    exact unknown_index cfg index

theorem resolve_encodeMem (cfg : Config) (m : MemRef) : (encodeMem m).resolve cfg = some (.mem m) := by
  obtain ⟨base, offset, scale, index⟩ := m
  cases base <;>
    simp [encodeMem, Operand.resolve, resolveMem, resolveBase, scale_ofNat?_factor, resolveIndex_cellName, lookupReg_cellName,
      Reg.cell32?]

/-- A source operand decodes to the source it encodes. -/
theorem admitOperand_encodeSrc {cfg : Config} (hc : cfg.Clear) {src : Src} (h : src.spelled cfg = true) :
    admitOperand cfg Opnd.src? (encodeSrc cfg src) = .ok src := by
  cases src with
  | imm k => rfl
  | reg r => exact admitOperand_register (lookupReg_regName hc h) rfl
  | mem m => exact admitOperand_of_resolve (unknown_encodeMem cfg m) (resolve_encodeMem cfg m) rfl

/-- A destination operand decodes to the destination it encodes. -/
theorem admitOperand_encodeDst {cfg : Config} (hc : cfg.Clear) {dst : Dst} (h : dst.spelled cfg = true) :
    admitOperand cfg Opnd.dst? (encodeDst cfg dst) = .ok dst := by
  cases dst with
  | reg r => exact admitOperand_register (lookupReg_regName hc h) rfl
  | mem m => exact admitOperand_of_resolve (unknown_encodeMem cfg m) (resolve_encodeMem cfg m) rfl

/-- A register operand that resolves has a spelling. -/
theorem spelled_of_resolve {cfg : Config} {op : Operand} {r : Reg} (h : op.resolve cfg = some (.reg r)) :
    r.spelled cfg = true := by
  cases op with
  | register n =>
    obtain ⟨r', hr, heq⟩ := Option.map_eq_some_iff.mp h
    cases heq
    exact lookupReg_spelled hr
  | literal k => cases h
  | labelRef n => cases h
  | memory b o sc i => obtain ⟨m, -, heq⟩ := Option.map_eq_some_iff.mp h; cases heq
  | memoryNoBase o sc i => obtain ⟨m, -, heq⟩ := Option.map_eq_some_iff.mp h; cases heq

theorem src_spelled_of_admit {cfg : Config} {op : Operand} {src : Src} (h : admitOperand cfg Opnd.src? op = .ok src) :
    src.spelled cfg = true := by
  obtain ⟨o, ho, hk⟩ := admitOperand_ok h
  cases o with
  | imm k => cases hk; rfl
  | reg r => cases hk; exact spelled_of_resolve ho
  | mem m => cases hk; rfl
  | label n => cases hk

theorem dst_spelled_of_admit {cfg : Config} {op : Operand} {dst : Dst} (h : admitOperand cfg Opnd.dst? op = .ok dst) :
    dst.spelled cfg = true := by
  obtain ⟨o, ho, hk⟩ := admitOperand_ok h
  cases o with
  | imm k => cases hk
  | reg r => cases hk; exact spelled_of_resolve ho
  | mem m => cases hk; rfl
  | label n => cases hk

end Sys2Proof
end

section
/-! What the decoder builds is well-formed (30_encoding.md rules R117, R120 to R122, R129): the ranges of its fields, each shape of row,
then the map. -/

namespace Sys2Proof

open Machine

/-! ## Ranges of counts, sizes and levels (R117) -/

theorem uimm?_isSome (n : Nat) (k : I32) : (uimm? n k).isSome = true ↔ 0 ≤ k.toInt ∧ k.toInt ≤ 2 ^ n - 1 := by
  unfold uimm?
  split
  · exact iff_of_true rfl ‹_›
  · exact iff_of_false Bool.false_ne_true ‹_›

/-- An admitted field has the literal's value. -/
theorem toNat_of_uimm? {n : Nat} {k : I32} {v : BitVec n} (h : uimm? n k = some v) : (v.toNat : Int) = k.toInt := by
  obtain ⟨hlo, hhi⟩ := (uimm?_isSome n k).mp (Option.isSome_of_mem h)
  have hk : k.toInt = k.toNat := by
    rw [BitVec.toInt_eq_toNat_cond] at hlo ⊢
    split at hlo <;> omega
  have hlt : k.toNat < 2 ^ n := by
    rw [hk] at hhi
    exact_mod_cast Int.lt_of_le_sub_one hhi
  have hv : k.setWidth n = v := by
    rw [uimm?, if_pos ⟨hlo, hhi⟩] at h
    exact Option.some.inj h
  rw [← hv, hk, BitVec.toNat_setWidth, Nat.mod_eq_of_lt hlt]

/-- A field of less than 32 bits is admitted as the literal of its value. -/
theorem uimm?_setWidth {n : Nat} (hn : n < 32) (v : BitVec n) : uimm? n (v.setWidth 32) = some v := by
  have hv : v.toNat < 2 ^ n := v.isLt
  have hpow : 2 ^ n ≤ 2 ^ 31 := Nat.pow_le_pow_right (by omega) (by omega)
  have hint : (v.setWidth 32).toInt = v.toNat := by
    rw [BitVec.toInt_eq_toNat_cond, BitVec.toNat_setWidth, Nat.mod_eq_of_lt (by omega), if_pos (by omega)]
  have hle : (v.toNat : Int) ≤ 2 ^ n - 1 := Int.le_sub_one_of_lt (by exact_mod_cast hv)
  rw [uimm?, hint, if_pos ⟨by omega, hle⟩, BitVec.setWidth_setWidth_of_le _ hn.le, BitVec.setWidth_eq]

/-! ## Well-formed operands -/

theorem wfBinary_iff {cfg : Config} {w : Width} {src : Src} {dst : Dst} :
    wfBinary cfg w src dst = true ↔ (!bothMem src dst && src.fits w && dst.fits w) = true ∧ src.spelled cfg = true ∧
      dst.spelled cfg = true := by
  simp only [wfBinary, Bool.and_eq_true]
  tauto

theorem wfUnary_iff {cfg : Config} {w : Width} {dst : Dst} :
    wfUnary cfg w dst = true ↔ dst.fits w = true ∧ dst.spelled cfg = true := by
  rw [wfUnary, Bool.and_eq_true]

theorem wfSource_iff {cfg : Config} {src : Src} :
    wfSource cfg src = true ↔ src.fits .w32 = true ∧ src.spelled cfg = true := by
  rw [wfSource, Bool.and_eq_true]

/-! ## Stages 2 to 4 of the decoder: what each row's shape gives is well-formed (R120, R121, R122, R129) -/

/-- A checked answer of stages 2 to 4: the operand is admitted and the check holds. -/
theorem bind_ensure_eq_ok {α β : Type} {x : Except ErrorKind α} {c : α → Bool} {f : α → β} {b : β} :
    (x >>= fun a => ensure (c a) (f a)) = .ok b ↔ ∃ a, x = .ok a ∧ c a = true ∧ f a = b := by
  rw [bind_eq_ok]
  refine exists_congr fun a => and_congr_right fun _ => ?_
  cases hc : c a <;> simp [ensure]

section

variable {cfg : Config} {suffix : Option Width} {ops : List Operand} {i : Instr}

theorem buildBinary_ok {mk : Width → Src → Dst → Instr} (h : buildBinary cfg suffix mk ops = .ok i) :
    ∃ src dst, wfBinary cfg (opWidth suffix dst.width? src.width?) src dst = true ∧
      mk (opWidth suffix dst.width? src.width?) src dst = i := by
  unfold buildBinary at h
  split at h
  · obtain ⟨src, hsrc, h⟩ := bind_eq_ok.mp h
    obtain ⟨dst, hdst, hfits, h⟩ := bind_ensure_eq_ok.mp h
    exact ⟨src, dst, wfBinary_iff.mpr ⟨hfits, src_spelled_of_admit hsrc, dst_spelled_of_admit hdst⟩, h⟩
  · cases h

theorem buildUnary_ok {mk : Width → Dst → Instr} (h : buildUnary cfg suffix mk ops = .ok i) :
    ∃ w dst, wfUnary cfg w dst = true ∧ mk w dst = i := by
  unfold buildUnary at h
  split at h
  · obtain ⟨dst, hdst, hfits, h⟩ := bind_ensure_eq_ok.mp h
    exact ⟨_, dst, wfUnary_iff.mpr ⟨hfits, dst_spelled_of_admit hdst⟩, h⟩
  · cases h

theorem buildSource_ok {mk : Src → Instr} (h : buildSource cfg suffix mk ops = .ok i) :
    ∃ src, wfSource cfg src = true ∧ mk src = i := by
  unfold buildSource at h
  split at h
  · obtain ⟨src, hsrc, hfits, h⟩ := bind_ensure_eq_ok.mp h
    exact ⟨src, wfSource_iff.mpr ⟨Bool.and_elim_right hfits, src_spelled_of_admit hsrc⟩, h⟩
  · cases h

theorem buildImul_ok (h : buildImul cfg suffix ops = .ok i) : ∃ src dst, wfSource cfg src = true ∧ .imul src dst = i := by
  unfold buildImul at h
  split at h
  · obtain ⟨src, hsrc, hfits, h⟩ := bind_ensure_eq_ok.mp h
    exact ⟨src, none, wfSource_iff.mpr ⟨Bool.and_elim_right hfits, src_spelled_of_admit hsrc⟩, h⟩
  · obtain ⟨src, hsrc, h⟩ := bind_eq_ok.mp h
    obtain ⟨r, -, h⟩ := bind_eq_ok.mp h
    obtain ⟨c, -, hfits, h⟩ := bind_ensure_eq_ok.mp h
    exact ⟨src, some c, wfSource_iff.mpr ⟨Bool.and_elim_right hfits, src_spelled_of_admit hsrc⟩, h⟩
  · cases h

theorem buildPop_ok (h : buildPop cfg suffix ops = .ok i) : ∃ dst, wfUnary cfg .w32 dst = true ∧ .pop dst = i := by
  unfold buildPop at h
  split at h
  · obtain ⟨dst, hdst, hfits, h⟩ := bind_ensure_eq_ok.mp h
    exact ⟨dst, wfUnary_iff.mpr ⟨Bool.and_elim_right hfits, dst_spelled_of_admit hdst⟩, h⟩
  · cases h

theorem buildShift_ok {mk : Width → Count → Dst → Instr} (h : buildShift cfg suffix mk ops = .ok i) :
    ∃ w count dst, wfUnary cfg w dst = true ∧ mk w count dst = i := by
  unfold buildShift at h
  split at h
  · obtain ⟨dst, hdst, hfits, h⟩ := bind_ensure_eq_ok.mp h
    exact ⟨_, .one, dst, wfUnary_iff.mpr ⟨hfits, dst_spelled_of_admit hdst⟩, h⟩
  · obtain ⟨k, -, h⟩ := bind_eq_ok.mp h
    obtain ⟨dst, hdst, h⟩ := bind_eq_ok.mp h
    obtain ⟨count, -, hfits, h⟩ := bind_ensure_eq_ok.mp h
    exact ⟨_, count, dst, wfUnary_iff.mpr ⟨hfits, dst_spelled_of_admit hdst⟩, h⟩
  · cases h

theorem buildJump_ok {mk : Text → Instr} (h : buildJump cfg mk ops = .ok i) : ∃ target, mk target = i := by
  unfold buildJump at h
  split at h
  · obtain ⟨target, -, h⟩ := map_eq_ok.mp h
    exact ⟨target, h⟩
  · cases h

theorem buildSet_ok {mk : Dst → Instr} (h : buildSet cfg mk ops = .ok i) :
    ∃ dst, wfUnary cfg .w8 dst = true ∧ mk dst = i := by
  unfold buildSet at h
  split at h
  · obtain ⟨dst, hdst, hfits, h⟩ := bind_ensure_eq_ok.mp h
    exact ⟨dst, wfUnary_iff.mpr ⟨hfits, dst_spelled_of_admit hdst⟩, h⟩
  · cases h

theorem buildRet_ok (h : buildRet cfg ops = .ok i) : ∃ size, .ret size = i := by
  unfold buildRet at h
  split at h
  · exact ⟨none, Except.ok.inj h⟩
  · obtain ⟨k, -, h⟩ := bind_eq_ok.mp h
    obtain ⟨size, -, h⟩ := bind_eq_ok.mp h
    exact ⟨some size, Except.ok.inj h⟩
  · cases h

theorem buildEnter_ok (h : buildEnter cfg ops = .ok i) : ∃ size level, .enter size level = i := by
  unfold buildEnter at h
  split at h
  · obtain ⟨k, -, h⟩ := bind_eq_ok.mp h
    obtain ⟨size, -, h⟩ := bind_eq_ok.mp h
    exact ⟨size, none, Except.ok.inj h⟩
  · obtain ⟨k, -, h⟩ := bind_eq_ok.mp h
    obtain ⟨n, -, h⟩ := bind_eq_ok.mp h
    obtain ⟨size, -, h⟩ := bind_eq_ok.mp h
    obtain ⟨level, -, h⟩ := bind_eq_ok.mp h
    exact ⟨size, some level, Except.ok.inj h⟩
  · cases h

theorem buildPlain_ok {j : Instr} (h : buildPlain j ops = .ok i) : j = i := by
  unfold buildPlain at h
  split at h
  · exact Except.ok.inj h
  · cases h

end

/-! ## Every row builds well-formed instructions -/

/-- The instructions a row builds are well-formed as their operands are. -/
def Row.Sound : Row → Prop
  | .alu mk => ∀ cfg w src dst, (mk w src dst).wellFormed cfg = wfBinary cfg w src dst
  | .unary mk => ∀ cfg w dst, (mk w dst).wellFormed cfg = wfUnary cfg w dst
  | .source mk => ∀ cfg src, (mk src).wellFormed cfg = wfSource cfg src
  | .imul => ∀ cfg src dst, (Instr.imul src dst).wellFormed cfg = wfSource cfg src
  | .pop => ∀ cfg dst, (Instr.pop dst).wellFormed cfg = wfUnary cfg .w32 dst
  | .shift mk => ∀ cfg w count dst, (mk w count dst).wellFormed cfg = wfUnary cfg w dst
  | .jump mk => ∀ cfg target, (mk target).wellFormed cfg = true
  | .cmov mk => ∀ cfg w src dst, (mk w src dst).wellFormed cfg = wfCmov cfg w src dst
  | .setcc mk => ∀ cfg dst, (mk dst).wellFormed cfg = wfUnary cfg .w8 dst
  | .ret => ∀ cfg size, (Instr.ret size).wellFormed cfg = true
  | .enter => ∀ cfg size level, (Instr.enter size level).wellFormed cfg = true
  | .plain i => ∀ cfg, i.wellFormed cfg = true

theorem rows_sound : ∀ p ∈ rows, p.2.Sound := by
  simp only [rows, arithmeticRows, multiplyShiftRows, controlRows, stringRows, jumpRows, cmovRows, setRows, List.cons_append,
    List.nil_append, List.forall_mem_cons, List.not_mem_nil, IsEmpty.forall_iff, implies_true, and_true, Row.Sound]
  and_intros <;> intros <;> rfl

theorem Row.build_wellFormed {cfg : Config} {row : Row} {suffix : Option Width} {ops : List Operand} {i : Instr}
    (hrow : row.Sound) (hsuffix : suffix = none ∨ row.suffixable = true) (h : row.build cfg suffix ops = .ok i) :
    i.wellFormed cfg = true := by
  cases row with
  | alu mk =>
    obtain ⟨src, dst, hwf, rfl⟩ := buildBinary_ok h
    exact (hrow cfg _ src dst).trans hwf
  | unary mk =>
    obtain ⟨w, dst, hwf, rfl⟩ := buildUnary_ok h
    exact (hrow cfg w dst).trans hwf
  | source mk =>
    obtain ⟨src, hwf, rfl⟩ := buildSource_ok h
    exact (hrow cfg src).trans hwf
  | imul =>
    obtain ⟨src, dst, hwf, rfl⟩ := buildImul_ok h
    exact (hrow cfg src dst).trans hwf
  | pop =>
    obtain ⟨dst, hwf, rfl⟩ := buildPop_ok h
    exact (hrow cfg dst).trans hwf
  | shift mk =>
    obtain ⟨w, count, dst, hwf, rfl⟩ := buildShift_ok h
    exact (hrow cfg w count dst).trans hwf
  | jump mk =>
    obtain ⟨target, rfl⟩ := buildJump_ok h
    exact hrow cfg target
  | cmov mk =>
    obtain rfl : suffix = none := hsuffix.resolve_right Bool.false_ne_true
    obtain ⟨src, dst, hwf, rfl⟩ := buildBinary_ok h
    rw [hrow, wfCmov, hwf]
    exact decide_eq_true rfl
  | setcc mk =>
    obtain ⟨dst, hwf, rfl⟩ := buildSet_ok h
    exact (hrow cfg dst).trans hwf
  | ret =>
    obtain ⟨size, rfl⟩ := buildRet_ok h
    exact hrow cfg size
  | enter =>
    obtain ⟨size, level, rfl⟩ := buildEnter_ok h
    exact hrow cfg size level
  | plain j =>
    obtain rfl := buildPlain_ok h
    exact hrow cfg

/-- Settles O2: the row is one of the map's, or the exit instruction's. -/
theorem decodedIsWellFormed : Obligations.DecodedIsWellFormed := by
  intro cfg r i h
  obtain ⟨row, suffix, hm, h⟩ := decode_ok h
  obtain ⟨⟨base, hrow⟩, hsuffix⟩ | rfl := decodeMnemonic_ok hm
  · exact Row.build_wellFormed (rows_sound _ hrow) hsuffix h
  · obtain rfl := buildPlain_ok h
    rfl

end Sys2Proof
end

section
/-! Decoding what the encoder writes (30_encoding.md rules R116, R118, R119, R129): one lemma per shape of row, then the rows. -/

namespace Sys2Proof

open Machine

/-! ## The map has no two rows of one spelling -/

theorem rows_nodup : (rows.map Prod.fst).Nodup := by
  simp only [rows, List.map_append, List.nodup_append, List.forall_mem_append]
  and_intros <;> decide

/-- A row found in a part of the map is the map's under its spelling. -/
theorem assoc_of_part {part : List (Text × Row)} (hpart : part ⊆ rows) {m : Text} {row : Row} (h : assoc m part = some row) :
    assoc m rows = some row :=
  assoc_eq_some_of_mem rows_nodup (hpart (mem_of_assoc_eq_some h))

theorem stringRows_subset : stringRows ⊆ rows := fun _ hp => by simp [rows, hp]
theorem jumpRows_subset : jumpRows ⊆ rows := fun _ hp => by simp [rows, hp]
theorem cmovRows_subset : cmovRows ⊆ rows := fun _ hp => by simp [rows, hp]
theorem setRows_subset : setRows ⊆ rows := fun _ hp => by simp [rows, hp]

section

variable {cfg : Config} {m : Text}

theorem decode_of_row {row : Row} (h : assoc m rows = some row) (ops : List Operand) :
    decode cfg ⟨m, ops⟩ = row.build cfg none ops :=
  decode_of_mnemonic (decodeMnemonic_of_assoc cfg h) ops

theorem decode_of_suffixed_row (hc : cfg.Clear) {row : Row} (h : assoc m rows = some row) (hs : row.suffixable = true)
    (w : Width) (ops : List Operand) : decode cfg ⟨suffixed m w, ops⟩ = row.build cfg (some w) ops :=
  decode_of_mnemonic (decodeMnemonic_suffixed hc h hs w) ops

/-! ## Operands that decode to what they encode -/

theorem buildBinary_encode (hc : cfg.Clear) {suffix : Option Width} {mk : Width → Src → Dst → Instr} {w : Width} {src : Src}
    {dst : Dst} (hw : opWidth suffix dst.width? src.width? = w) (h : wfBinary cfg w src dst = true) :
    buildBinary cfg suffix mk [encodeSrc cfg src, encodeDst cfg dst] = .ok (mk w src dst) := by
  subst hw
  obtain ⟨hfits, hsrc, hdst⟩ := wfBinary_iff.mp h
  rw [buildBinary, admitOperand_encodeSrc hc hsrc, ok_bind]
  exact bind_ensure_eq_ok.mpr ⟨dst, admitOperand_encodeDst hc hdst, hfits, rfl⟩

/-- A destination that is admitted and checked. -/
theorem admit_ensure_encodeDst (hc : cfg.Clear) {w : Width} {dst : Dst} (h : wfUnary cfg w dst = true) {c : Dst → Bool}
    {mk : Dst → Instr} (hcheck : dst.fits w = true → c dst = true) :
    (admitOperand cfg Opnd.dst? (encodeDst cfg dst) >>= fun d => ensure (c d) (mk d)) = .ok (mk dst) := by
  obtain ⟨hfits, hdst⟩ := wfUnary_iff.mp h
  exact bind_ensure_eq_ok.mpr ⟨dst, admitOperand_encodeDst hc hdst, hcheck hfits, rfl⟩

/-- A 32-bit source that is admitted and checked. -/
theorem admit_ensure_encodeSrc (hc : cfg.Clear) {src : Src} (h : wfSource cfg src = true) {mk : Src → Instr} :
    (admitOperand cfg Opnd.src? (encodeSrc cfg src) >>= fun x => ensure (suffixIs32 none && x.fits .w32) (mk x)) =
      .ok (mk src) := by
  obtain ⟨hfits, hsrc⟩ := wfSource_iff.mp h
  exact bind_ensure_eq_ok.mpr ⟨src, admitOperand_encodeSrc hc hsrc, hfits, rfl⟩

/-! ## The rows -/

theorem decode_alu (hc : cfg.Clear) {mk : Width → Src → Dst → Instr} (hm : assoc m rows = some (.alu mk)) {w : Width}
    {src : Src} {dst : Dst} (h : wfBinary cfg w src dst = true) :
    decode cfg ⟨suffixed m w, [encodeSrc cfg src, encodeDst cfg dst]⟩ = .ok (mk w src dst) :=
  (decode_of_suffixed_row hc hm rfl w _).trans (buildBinary_encode hc rfl h)

theorem decode_cmov (hc : cfg.Clear) {mk : Width → Src → Dst → Instr} (hm : assoc m rows = some (.cmov mk)) {w : Width}
    {src : Src} {dst : Dst} (h : wfCmov cfg w src dst = true) :
    decode cfg ⟨m, [encodeSrc cfg src, encodeDst cfg dst]⟩ = .ok (mk w src dst) := by
  obtain ⟨hwf, hw⟩ := Bool.and_eq_true_iff.mp h
  exact (decode_of_row hm _).trans (buildBinary_encode hc (of_decide_eq_true hw).symm hwf)

theorem decode_unary (hc : cfg.Clear) {mk : Width → Dst → Instr} (hm : assoc m rows = some (.unary mk)) {w : Width} {dst : Dst}
    (h : wfUnary cfg w dst = true) : decode cfg ⟨suffixed m w, [encodeDst cfg dst]⟩ = .ok (mk w dst) :=
  (decode_of_suffixed_row hc hm rfl w _).trans (admit_ensure_encodeDst hc h (mk := mk w) id)

theorem decode_source (hc : cfg.Clear) {mk : Src → Instr} (hm : assoc m rows = some (.source mk)) {src : Src}
    (h : wfSource cfg src = true) : decode cfg ⟨m, [encodeSrc cfg src]⟩ = .ok (mk src) :=
  (decode_of_row hm _).trans (admit_ensure_encodeSrc hc h)

theorem decode_set (hc : cfg.Clear) {mk : Dst → Instr} (hm : assoc m rows = some (.setcc mk)) {dst : Dst}
    (h : wfUnary cfg .w8 dst = true) : decode cfg ⟨m, [encodeDst cfg dst]⟩ = .ok (mk dst) :=
  (decode_of_row hm _).trans (admit_ensure_encodeDst hc h id)

theorem decode_pop (hc : cfg.Clear) {dst : Dst} (h : wfUnary cfg .w32 dst = true) :
    decode cfg (encode cfg (.pop dst)) = .ok (.pop dst) :=
  (decode_of_row (row := .pop) rfl _).trans (admit_ensure_encodeDst hc h id)

theorem decode_imul (hc : cfg.Clear) {src : Src} (h : wfSource cfg src = true) (dst : Option Cell) :
    decode cfg (encode cfg (.imul src dst)) = .ok (.imul src dst) := by
  cases dst with
  | none => exact (decode_of_row (row := .imul) rfl _).trans (admit_ensure_encodeSrc hc h (mk := fun x => .imul x none))
  | some c =>
    obtain ⟨hfits, hsrc⟩ := wfSource_iff.mp h
    have hdst : admitOperand cfg Opnd.reg? (.register (cellName c)) = .ok (.r32 c) :=
      admitOperand_register (lookupReg_cellName cfg c) rfl
    refine (decode_of_row (row := .imul) rfl _).trans ?_
    rw [Row.build, buildImul, admitOperand_encodeSrc hc hsrc, ok_bind, hdst, ok_bind]
    exact bind_ensure_eq_ok.mpr ⟨c, rfl, hfits, rfl⟩

/-- A rotate or shift in its two forms: the count 1, or a count operand. -/
theorem decode_shift (hc : cfg.Clear) {mk : Width → Count → Dst → Instr} (hm : assoc m rows = some (.shift mk)) {w : Width}
    {dst : Dst} (h : wfUnary cfg w dst = true) (count : Count) :
    decode cfg ⟨suffixed m w, encodeShift cfg dst count⟩ = .ok (mk w count dst) := by
  refine (decode_of_suffixed_row hc hm rfl w _).trans ?_
  obtain ⟨hfits, hdst⟩ := wfUnary_iff.mp h
  have hcounted : ∀ a k, admitOperand cfg Opnd.count? a = .ok k → countOf k = .ok count →
      buildShift cfg (some w) mk [a, encodeDst cfg dst] = .ok (mk w count dst) := by
    intro a k ha hk
    rw [buildShift, ha, ok_bind, admitOperand_encodeDst hc hdst, ok_bind]
    exact bind_ensure_eq_ok.mpr ⟨count, hk, hfits, rfl⟩
  cases count with
  | one => exact admit_ensure_encodeDst hc h (mk := mk w .one) id
  | imm k =>
    refine hcounted _ (some (k.setWidth 32)) rfl ?_
    rw [countOf, uimm?_setWidth (by decide) k]
    rfl
  | cl => exact hcounted _ none (admitOperand_register (r := .lo8 .ecx) rfl rfl) rfl

theorem decode_jump {mk : Text → Instr} (hm : assoc m rows = some (.jump mk)) (target : Text) :
    decode cfg ⟨m, [.labelRef target]⟩ = .ok (mk target) :=
  decode_of_row hm _

theorem decode_ret (size : Option (BitVec 16)) : decode cfg (encode cfg (.ret size)) = .ok (.ret size) := by
  cases size with
  | none => exact decode_of_row (row := .ret) rfl _
  | some k =>
    refine (decode_of_row (row := .ret) rfl _).trans ?_
    have hk : admitOperand cfg Opnd.imm? (.literal (k.setWidth 32)) = .ok (k.setWidth 32) := rfl
    rw [Row.build, buildRet, hk, ok_bind, uimm?_setWidth (by decide) k]
    rfl

theorem decode_enter (size : BitVec 16) (level : Option Byte) :
    decode cfg (encode cfg (.enter size level)) = .ok (.enter size level) := by
  have hlit : ∀ k, admitOperand cfg Opnd.imm? (.literal k) = .ok k := fun _ => rfl
  cases level with
  | none =>
    refine (decode_of_row (row := .enter) rfl _).trans ?_
    rw [Row.build, buildEnter, hlit, ok_bind, uimm?_setWidth (by decide) size]
    rfl
  | some l =>
    refine (decode_of_row (row := .enter) rfl _).trans ?_
    rw [Row.build, buildEnter, hlit, ok_bind, hlit, ok_bind, uimm?_setWidth (by decide) size, uimm?_setWidth (by decide) l]
    rfl

theorem decode_plain {j : Instr} (hm : assoc m rows = some (.plain j)) : decode cfg ⟨m, []⟩ = .ok j :=
  decode_of_row hm _

theorem decode_hlt (hc : cfg.Clear) : decode cfg (encode cfg .hlt) = .ok .hlt := by
  have hmem := exitName_mem hc
  obtain ⟨hnew, -⟩ := hc.exitNew _ hmem
  exact decode_of_mnemonic (decodeMnemonic_exit hnew hmem) _

end

/-- Settles O1: each constructor by the shape of its row. -/
theorem decodeEncodeAgree : Obligations.DecodeEncodeAgree := by
  intro cfg i hclear h
  have hc := Config.clear_of_spellingsClear hclear
  cases i
  case add | adc | sub | sbb | cmp | and | or | xor | test | mov => exact decode_alu hc rfl h
  case inc | dec | neg | not => exact decode_unary hc rfl h
  case mul | div | idiv | push => exact decode_source hc rfl h
  case imul => exact decode_imul hc h _
  case pop => exact decode_pop hc h
  case rol | ror | rcl | rcr | shl | sal | shr | sar => exact decode_shift hc rfl h _
  case jmp | call => exact decode_jump rfl _
  case ret => exact decode_ret _
  case enter => exact decode_enter _ _
  case hlt => exact decode_hlt hc
  case pushf | pushfl | pushfd | popf | popfl | popfd | lahf | sahf | leave | nop => exact decode_plain rfl
  case cmpsb | cmpsw | cmpsd | cmpsl | movsb | movsw | movsd | movsl | scasb | scasw | scasd | scasl | stosb | stosw | stosd
    | stosl | lodsb | lodsw | lodsd | lodsl => exact decode_plain (assoc_of_part stringRows_subset rfl)
  case jo | jno | jb | jc | jnae | jae | jnb | jnc | je | jz | jne | jnz
    | jbe | jna | ja | jnbe | js | jns | jp | jpe | jnp | jpo | jl | jnge
    | jge | jnl | jle | jng | jg | jnle => exact decode_jump (assoc_of_part jumpRows_subset rfl) _
  case cmovo | cmovno | cmovb | cmovc | cmovnae | cmovae | cmovnb | cmovnc | cmove | cmovz | cmovne | cmovnz
    | cmovbe | cmovna | cmova | cmovnbe | cmovs | cmovns | cmovp | cmovpe | cmovnp | cmovpo | cmovl | cmovnge
    | cmovge | cmovnl | cmovle | cmovng | cmovg | cmovnle => exact decode_cmov hc (assoc_of_part cmovRows_subset rfl) h
  case seto | setno | setb | setc | setnae | setae | setnb | setnc | sete | setz | setne | setnz
    | setbe | setna | seta | setnbe | sets | setns | setp | setpe | setnp | setpo | setl | setnge
    | setge | setnl | setle | setng | setg | setnle => exact decode_set hc (assoc_of_part setRows_subset rfl) h

/-- Settles O3. -/
theorem specRecordsDecode : Obligations.SpecRecordsDecode := by
  unfold Obligations.SpecRecordsDecode
  decide

end Sys2Proof
end

section
/-! What the decoder refuses, and the immediates it admits (30_encoding.md rules R117, R124, R130, 40_execution.md rule R165,
60_exceptions.md rule R404). -/

namespace Sys2Proof

open Machine

/-! ## What fails to decode -/

theorem decode_of_mnemonic_error {cfg : Config} {m : Text} {e : ErrorKind} (h : decodeMnemonic cfg m = .error e)
    (ops : List Operand) : decode cfg ⟨m, ops⟩ = .error e := by
  rw [decode, h]

/-- A mnemonic that is no spelling of the map fails as `UNIMPLEMENTED_SET` says (R124). -/
theorem decodeMnemonic_unspelled {cfg : Config} {m : Text} (h : assoc m rows = none) (hm : m ∉ cfg.exitMnemonics)
    (hs : lookupSuffixed m = none) :
    decodeMnemonic cfg m =
      if m ∈ cfg.unimplementedSet then .error (.unimplementedInstruction m) else .error (.unknownMnemonic m) := by
  rw [decodeMnemonic, h, hs]
  exact if_neg hm

theorem buildBinary_arity {cfg : Config} {suffix : Option Width} {mk : Width → Src → Dst → Instr} {ops : List Operand}
    (h : ops.length ≠ 2) : buildBinary cfg suffix mk ops = .error .invalidOperand := by
  unfold buildBinary
  split
  · exact absurd rfl h
  · rfl

/-- Operand 0 is checked before operand 1. -/
theorem buildBinary_src_error {cfg : Config} {suffix : Option Width} {mk : Width → Src → Dst → Instr} {a b : Operand}
    {e : ErrorKind} (h : admitOperand cfg Opnd.src? a = .error e) : buildBinary cfg suffix mk [a, b] = .error e := by
  rw [buildBinary, h, error_bind]

theorem buildBinary_dst_error {cfg : Config} {suffix : Option Width} {mk : Width → Src → Dst → Instr} {a b : Operand}
    {src : Src} {e : ErrorKind} (ha : admitOperand cfg Opnd.src? a = .ok src) (hb : admitOperand cfg Opnd.dst? b = .error e) :
    buildBinary cfg suffix mk [a, b] = .error e := by
  rw [buildBinary, ha, ok_bind, hb, error_bind]

/-- Settles O4: the mnemonic first, then the operand count and the operands in their order. -/
theorem decodeErrors : Obligations.DecodeErrors := by
  refine ⟨fun cfg m ops hrow => ⟨fun hexit => ?_, fun hexit hsuffixed => ?_⟩, fun cfg m mk suffix hm => ?_⟩
  · exact decode_of_mnemonic (decodeMnemonic_exit hrow hexit) _
  · have herror := decodeMnemonic_unspelled hrow hexit hsuffixed
    exact ⟨fun hset => decode_of_mnemonic_error (herror.trans (if_pos hset)) ops,
      fun hset => decode_of_mnemonic_error (herror.trans (if_neg hset)) ops⟩
  · have hbuild : ∀ ops, decode cfg ⟨m, ops⟩ = buildBinary cfg suffix mk ops := decode_of_mnemonic hm
    simp only [hbuild]
    exact ⟨fun _ => buildBinary_arity, fun n b h => buildBinary_src_error (admitOperand_unknown _ h),
      fun n b => buildBinary_src_error rfl, fun a src n ha h => buildBinary_dst_error ha (admitOperand_unknown _ h),
      fun a src k ha => buildBinary_dst_error ha rfl⟩

/-! ## Immediates (R117) -/

theorem immFits_iff (w : Width) (k : I32) :
    immFits w k = true ↔ -(2 ^ (w.bits - 1) : Int) ≤ k.toInt ∧ k.toInt ≤ 2 ^ w.bits - 1 :=
  decide_eq_true_iff

/-- Every literal fits 32 bits. -/
theorem immFits_w32 (k : I32) : immFits .w32 k = true := by
  have hlo := BitVec.le_toInt k
  have hhi := BitVec.toInt_lt (x := k)
  rw [immFits_iff]
  simp only [Width.bits]
  omega

/-- The value of an immediate is its literal modulo `2^w`. -/
theorem immValue_toNat (w : Width) (k : I32) : ((immValue w k).toNat : Int) = k.toInt % 2 ^ w.bits := by
  have hdvd : (2 ^ w.bits : Int) ∣ 2 ^ 32 := pow_dvd_pow 2 (by cases w <;> decide)
  have hk : k.toInt % 2 ^ 32 = k.toNat := by
    rw [BitVec.toInt_eq_toNat_cond]
    split <;> omega
  rw [← Int.emod_emod_of_dvd _ hdvd, hk, immValue, BitVec.toNat_setWidth]
  push_cast
  rfl

/-- Settles O25. -/
theorem immediates : Obligations.Immediates := fun k w =>
  ⟨immFits_iff w k, immFits_w32 k, immValue_toNat w k, uimm?_isSome 8 k, uimm?_isSome 16 k, fun _ => toNat_of_uimm?,
    fun _ => toNat_of_uimm?⟩

end Sys2Proof
end

section
/-! Jumps, conditional moves and conditional sets (45_conditional.md): the shared operation of each family, then its spellings. -/

namespace Sys2Proof.Machine

/-! ## Jumps (R327, R368) -/

theorem withTarget_found {s : State} {target : Text} {k : Nat} (h : assoc target s.labels = some k) (found : Nat → State) :
    withTarget target s found = .next (found k).retire := by
  rw [withTarget, h]
  rfl

/-- A jump to a label in the table leaves everything but the pc. -/
theorem jumpIf_found {s : State} {target : Text} {k : Nat} (he : s.exit = false) (h : assoc target s.labels = some k)
    (c : Cond) : jumpIf c target s = .next { s with pc := if condHolds s.flags c then k else s.pc + 1 } := by
  rw [jumpIf, withTarget_found h]
  split
  · rw [retire_of_running (s := s.withPc k) he]; rfl
  · rw [retire_of_running (s := s.advance) he]; rfl

/-- Each spelling of `j<cc>` runs the shared operation on its condition. -/
theorem exec_jumpSpellings : ∀ p ∈ jumpSpellings, ∀ (target : Text) (s : State), exec (p.2 target) s = jumpIf p.1 target s := by
  simp only [jumpSpellings, List.forall_mem_cons, List.not_mem_nil, IsEmpty.forall_iff, implies_true, and_true]
  and_intros <;> exact fun _ _ => rfl

/-- Settles O47. -/
theorem jumpResult : Obligations.JumpResult := by
  intro s target k he h
  refine ⟨fun p hp => (exec_jumpSpellings p hp target s).trans (jumpIf_found he h p.1), ?_⟩
  have hjmp : exec (.jmp target) s = .next (s.withPc k).retire := withTarget_found h _
  rw [hjmp, retire_of_running (s := s.withPc k) he]
  rfl

/-! ## Conditional moves (R328) -/

/-- After its source is read and its destination found reachable, a conditional move writes or leaves the destination. -/
theorem cmovIf_of_reachable {s : State} {w : Width} {src : Src} {dst : Dst} {x : BitVec w.bits} (hx : s.srcVal w src = .ok x)
    (hr : DstReachable w dst s) (c : Cond) :
    cmovIf c w src dst s =
      complete s ((if condHolds s.flags c then s.writeDst w dst x s else .ok s).map State.advance) := by
  obtain ⟨d, hd⟩ := (dstVal_isOk_iff s w dst).mpr hr
  have hcheck : s.checkView w (s.dstView dst) = .ok () := map_eq_ok.mpr ⟨d, hd, rfl⟩
  rw [cmovIf, hx, ok_bind, hcheck, ok_bind]

/-- Settles O49: the two outcomes of the condition. -/
theorem cmovResult : Obligations.CmovResult := by
  intro p hp s w src dst x hready hwf hx hr
  obtain ⟨hform, hexec⟩ := cmovSpellings_spec p hp s.cfg w src dst s
  obtain ⟨hbinary, -⟩ := Bool.and_eq_true_iff.mp (hform.symm.trans hwf)
  obtain ⟨hfits, -, -⟩ := wfBinary_iff.mp hbinary
  rw [hexec, cmovIf_of_reachable hx hr]
  cases hcond : condHolds s.flags p.1 with
  | false =>
    refine ⟨s.advance, ?_, (Keeps.refl s).continues rfl, rfl, nofun, fun _ => rfl⟩
    exact congrArg Host.Outcome.next (retire_of_running (s := s.advance) hready.2)
  | true =>
    obtain ⟨u, hu, hold, hflags, hpc, hk⟩ :=
      writeDst_completes x rfl hready.1 (Bool.and_elim_right hfits) hr
    refine ⟨u.advance, ?_, hk.continues hpc, hflags, fun _ => hold.congr rfl rfl rfl, nofun⟩
    rw [if_pos rfl, hu, ok_map, complete_ok, retire_of_running (s := u.advance) (hk.exit.trans hready.2)]

/-! ## Conditional sets (R329) -/

/-- Each spelling of `set<cc>` is well-formed as its byte destination is. -/
theorem setSpellings_wellFormed :
    ∀ p ∈ setSpellings, ∀ (cfg : Config) (dst : Dst), (p.2 dst).wellFormed cfg = wfUnary cfg .w8 dst := by
  simp only [setSpellings, List.forall_mem_cons, List.not_mem_nil, IsEmpty.forall_iff, implies_true, and_true]
  and_intros <;> exact fun _ _ => rfl

/-- Settles O50: the byte is written whatever the condition. -/
theorem setResult : Obligations.SetResult := by
  intro p hp s dst hready hwf hr
  obtain ⟨hfits, -⟩ := wfUnary_iff.mp ((setSpellings_wellFormed p hp s.cfg dst).symm.trans hwf)
  obtain ⟨u, hu, hold, hflags, hpc, hk⟩ :=
    writeDst_completes (if condHolds s.flags p.1 then 1#8 else 0#8 : BitVec Width.w8.bits) rfl hready.1 hfits hr
  refine ⟨u.advance, ?_, hk.continues hpc, hflags, hold.congr rfl rfl rfl⟩
  rw [exec_setSpellings p hp, setIf, hu, ok_bind, pure_eq_ok, complete_ok,
    retire_of_running (s := u.advance) (hk.exit.trans hready.2)]

end Sys2Proof.Machine
end

section
/-! The step of the core (40_execution.md rules R160 to R164, R170): the resolving pass, the line at the pc, and what an error
leaves. -/

namespace Sys2Proof.Machine

/-! ## The stream of the resolving pass (R161) -/

theorem resolveLine_stream (acc : List Line × List (Text × Nat)) (l : ProgLine) :
    (resolveLine acc l).1 = acc.1 ++ keptLine l := by
  match l with
  | .label _ none => exact (List.append_nil _).symm
  | .label _ (some _) => rfl
  | .plain _ => rfl

theorem foldl_resolveLine_stream (p : List ProgLine) (acc : List Line × List (Text × Nat)) :
    (p.foldl resolveLine acc).1 = acc.1 ++ p.flatMap keptLine := by
  induction p generalizing acc with
  | nil => simp
  | cons l p ih => rw [List.foldl_cons, ih, resolveLine_stream, List.flatMap_cons, List.append_assoc]

/-! ## The label table of the resolving pass (R53, R161) -/

theorem assoc_append {α : Type} (k : Text) (l m : List (Text × α)) : assoc k (l ++ m) = (assoc k l).or (assoc k m) := by
  induction l with
  | nil => rfl
  | cons p l ih =>
    simp only [List.cons_append, assoc]
    split
    · rfl
    · exact ih

/-- Adding a label defines its name, unless an earlier definition stands. -/
theorem assoc_addLabel (labels : List (Text × Nat)) (name n : Text) (k : Nat) :
    assoc name (addLabel labels n k) = (assoc name labels).or (if name = n then some k else none) := by
  unfold addLabel
  split
  next j hj =>
    by_cases h : name = n
    · rw [h, hj]; rfl
    · rw [if_neg h, Option.or_none]
  next => rw [assoc_append]; rfl

/-- A line defines its label as the index of the next line kept, unless an earlier definition stands. -/
theorem assoc_resolveLine (acc : List Line × List (Text × Nat)) (l : ProgLine) (name : Text) :
    assoc name (resolveLine acc l).2 =
      (assoc name acc.2).or (if labelOf? l = some name then some acc.1.length else none) := by
  match l with
  | .label n none | .label n (some _) => simp only [resolveLine, assoc_addLabel, labelOf?, Option.some.injEq, eq_comm]
  | .plain _ => exact Option.or_none.symm

theorem assoc_foldl_of_defined {name : Text} {k : Nat} (p : List ProgLine) {acc : List Line × List (Text × Nat)}
    (h : assoc name acc.2 = some k) : assoc name (p.foldl resolveLine acc).2 = some k := by
  induction p generalizing acc with
  | nil => exact h
  | cons l p ih => exact ih (by rw [assoc_resolveLine, h, Option.some_or])

theorem assoc_foldl_of_undefined {name : Text} (p : List ProgLine) (acc : List Line × List (Text × Nat))
    (h : ∀ l ∈ p, labelOf? l ≠ some name) : assoc name (p.foldl resolveLine acc).2 = assoc name acc.2 := by
  induction p generalizing acc with
  | nil => rfl
  | cons l p ih =>
    obtain ⟨hl, hp⟩ := List.forall_mem_cons.mp h
    rw [List.foldl_cons, ih _ hp, assoc_resolveLine, if_neg hl, Option.or_none]

theorem resolvePass_stream (p : List ProgLine) : (resolvePass p).1 = p.flatMap keptLine :=
  foldl_resolveLine_stream p _

/-- A name no line defines is not in the table. -/
theorem assoc_resolvePass_of_undefined {name : Text} {p : List ProgLine} (h : ∀ l ∈ p, labelOf? l ≠ some name) :
    assoc name (resolvePass p).2 = none :=
  assoc_foldl_of_undefined p _ h

/-- The first definition of a name gives the index of the next line kept. -/
theorem assoc_resolvePass_first {name : Text} {pre : List ProgLine} (h : ∀ l ∈ pre, labelOf? l ≠ some name)
    (rest : Option Line) (post : List ProgLine) :
    assoc name (resolvePass (pre ++ .label name rest :: post)).2 = some (pre.flatMap keptLine).length := by
  rw [resolvePass, List.foldl_append, List.foldl_cons]
  apply assoc_foldl_of_defined
  rw [assoc_resolveLine, assoc_foldl_of_undefined pre _ h, foldl_resolveLine_stream]
  exact if_pos rfl

/-- Settles O8. -/
theorem resolvingPass : Obligations.ResolvingPass := by
  intro s hs
  refine ⟨s.resolve, by rw [step, hs], resolvePass_stream s.program, fun pre name rest post hp h => ?_,
    fun name => assoc_resolvePass_of_undefined, rfl, rfl, rfl, rfl, rfl, rfl, rfl, rfl⟩
  have hfirst := assoc_resolvePass_first h rest post
  rwa [← hp] at hfirst

/-! ## The line at the pc (R162 to R164) -/

theorem step_of_line {s : State} {l : Line} (hs : s.status = .running) (hl : s.stream[s.pc]? = some l) :
    step s = stepLine s l := by
  simp only [step, hs, State.fetch, hl]

theorem stepLine_of_decode_ok {s : State} {r : Record} {i : Instr} (h : decode s.cfg r = .ok i) :
    stepLine s (.instr r) = exec i s := by
  simp only [stepLine, h]

theorem stepLine_of_decode_error {s : State} {r : Record} {e : ErrorKind} (h : decode s.cfg r = .error e) :
    stepLine s (.instr r) = .next (s.raise e) := by
  simp only [stepLine, h]

theorem step_of_exhausted {s : State} (hs : s.status = .running) (h : s.stream.length ≤ s.pc) :
    step s = .next s.endOfStream := by
  simp only [step, hs, State.fetch, List.getElem?_eq_none h]

/-- Settles O5. -/
theorem stepRunsDecodedInstruction : Obligations.StepRunsDecodedInstruction := fun _ _ _ hs hl hd =>
  (step_of_line hs hl).trans (stepLine_of_decode_ok hd)

/-- Settles O6. -/
theorem otherLines : Obligations.OtherLines := by
  intro s hs
  refine ⟨?_, step_of_exhausted hs, step_of_line hs, fun r e hl hd => ?_⟩
  · rintro (hl | hl)
    · exact step_of_line hs hl
    · exact step_of_line hs hl
  · exact (step_of_line hs hl).trans (stepLine_of_decode_error hd)

/-- Settles O12: of the ways a step of a running core can end, only taking an error leaves an error status. -/
theorem errorCommitsNothing : Obligations.ErrorCommitsNothing := by
  intro s t e hs ht he
  obtain ⟨hres, -⟩ | ⟨-, -, rfl⟩ | ⟨-, hpc, hline⟩ := step_cases ht
  · rw [hs] at hres
    cases hres
  · cases he
  · refine ⟨?_, hpc⟩
    obtain rfl | ⟨e', rfl⟩ | ⟨_, _, _, hhlt⟩ | ⟨u, rfl, hk⟩ := hline
    · rw [State.advance_status, hs] at he
      cases he
    · cases he
      rfl
    · cases hhlt
      cases he
    · rw [State.retire_status, hk.status, hs] at he
      split at he <;> cases he

/-- Settles O59. -/
theorem nopAndExit : Obligations.NopAndExit := fun s =>
  ⟨fun he => (plainOp_completes he (Keeps.refl s) rfl).1, exec_hlt s⟩

end Sys2Proof.Machine
end

section
/-! The result flags of an operation (40_execution.md rule R172), and `mov` with the flag clear before it (40_execution.md rule R171,
47_data_stack_control.md rule R360). -/

namespace Sys2Proof.Machine

/-! ## The result flags (R41, R172) -/

theorem popcount_setWidth_8 {n : Nat} (r : BitVec n) :
    popcount (r.setWidth 8) = ((List.range 8).filter r.getLsbD).length := by
  rw [popcount, ← List.countP_eq_length_filter]
  refine List.countP_congr fun k hk => ?_
  rw [BitVec.getLsbD_setWidth, decide_eq_true (List.mem_range.mp hk), Bool.true_and]

theorem parity_iff_oddLowByte {n : Nat} (r : BitVec n) : parity r = true ↔ OddLowByte r := by
  rw [parity, decide_eq_true_iff, popcount_setWidth_8, OddLowByte]

theorem resultFlags_setZSP {n : Nat} (f : Flags) (r : BitVec n) : ResultFlags r (f.setZSP r) := by
  refine ⟨decide_eq_true_iff.trans ?_, ?_, parity_iff_oddLowByte r⟩
  · rw [← BitVec.toNat_inj, BitVec.toNat_ofNat, Nat.zero_mod]
  · exact (Bool.eq_iff_iff.mp (BitVec.msb_eq_decide r)).trans decide_eq_true_iff

theorem get_setZSP {m : Nat} (f : Flags) (r : BitVec m) (n : FlagName) (hn : n ∉ [FlagName.zf, .sf, .pf]) :
    (f.setZSP r).get n = f.get n := by
  cases n
  case zf | sf | pf => exact absurd (by decide) hn
  all_goals rfl

/-- Settles O16. -/
theorem resultFlagsRule : Obligations.ResultFlagsRule := fun _ r f => ⟨resultFlags_setZSP f r, get_setZSP f r⟩

/-! ## `mov` (R171, R360) -/

/-- Every flag of the scope is false after `ClearFlags()`. -/
theorem get_clearScope_of_mem (f : Flags) (scope : ClearScope) (n : FlagName) (hn : n ∈ clearSet scope) :
    (f.clearScope scope).get n = false := by
  cases scope with
  | all16 => cases n <;> rfl
  | status6 =>
    revert n
    simp only [clearSet, statusFlags, List.forall_mem_cons, List.not_mem_nil, IsEmpty.forall_iff, implies_true, and_true]
    and_intros <;> rfl

theorem get_movFlags_eq_ite (s : State) (n : FlagName) :
    (movFlags s).get n =
      if s.cfg.clearBeforeMov = true ∧ n ∈ clearSet s.cfg.clearScope then false else s.flags.get n := by
  split
  next h =>
    obtain ⟨hclear, hn⟩ := h
    rw [movFlags, if_pos hclear, get_clearScope_of_mem _ _ n hn]
  next h =>
    refine get_movFlags s n fun hn => h ?_
    split at hn
    · exact ⟨‹_›, hn⟩
    · cases hn

/-- Settles O53. -/
theorem movResult : Obligations.MovResult := by
  intro s w src dst x hready hwf hx hreach
  obtain ⟨hoperands, -, -⟩ := wfBinary_iff.mp hwf
  have hfits : dst.fits w = true := Bool.and_elim_right hoperands
  have hclear := (Keeps.refl s).withFlags (movFlags s)
  obtain ⟨u, hu, hold, hflags, hpc, hk⟩ := writeDst_completes x hclear.cfg (hclear.memCanonical hready.1) hfits hreach
  have hsu := hclear.trans hk
  refine ⟨u.advance, ?_, hsu.continues hpc, hold.congr rfl rfl rfl, fun n => ?_⟩
  · rw [exec, execMov, hx, ok_bind, hu, ok_bind, pure_eq_ok, complete_ok,
      retire_of_running (s := u.advance) (hsu.exit.trans hready.2)]
  · rw [State.advance_flags, hflags, State.withFlags_flags, get_movFlags_eq_ite]

end Sys2Proof.Machine
end

section
/-! Integer arithmetic (41_arithmetic.md): the adder and the subtractor, the two steps of `adc` and `sbb`, and the results of the eight
instructions. -/

namespace Sys2Proof.Machine

/-! ## The adder and the subtractor (R200, R201) -/

/-- Two's-complement overflow of the library is the negation of fitting. -/
theorem saddOverflow_iff_not_signedFits {n : Nat} (d x : BitVec n) :
    d.saddOverflow x = true ↔ ¬ SignedFits n (d.toInt + x.toInt) := by
  rw [BitVec.saddOverflow, Bool.or_eq_true, decide_eq_true_iff, decide_eq_true_iff, SignedFits]
  omega

theorem ssubOverflow_iff_not_signedFits {n : Nat} (d x : BitVec n) :
    d.ssubOverflow x = true ↔ ¬ SignedFits n (d.toInt - x.toInt) := by
  rw [BitVec.ssubOverflow, Bool.or_eq_true, decide_eq_true_iff, decide_eq_true_iff, SignedFits]
  omega

/-- The adder's sign formula is signed overflow. -/
theorem addCore_ovf_iff {n : Nat} (d x : BitVec n) :
    (addCore d x).ovf = true ↔ ¬ SignedFits n (d.toInt + x.toInt) := by
  rw [← saddOverflow_iff_not_signedFits, BitVec.saddOverflow_eq]
  rfl

/-- The subtractor's sign formula is signed overflow. -/
theorem subCore_ovf_iff {n : Nat} (d x : BitVec n) :
    (subCore d x).ovf = true ↔ ¬ SignedFits n (d.toInt - x.toInt) := by
  rw [← ssubOverflow_iff_not_signedFits, BitVec.ssubOverflow_eq, subCore]
  cases d.msb <;> cases x.msb <;> simp

theorem addCore_cf_iff {n : Nat} (d x : BitVec n) : (addCore d x).cf = true ↔ 2 ^ n ≤ d.toNat + x.toNat := decide_eq_true_iff

theorem addCore_af_iff {n : Nat} (d x : BitVec n) : (addCore d x).af = true ↔ 0xF < d.toNat % 16 + x.toNat % 16 :=
  decide_eq_true_iff

theorem subCore_cf_iff {n : Nat} (d x : BitVec n) : (subCore d x).cf = true ↔ d.toNat < x.toNat := decide_eq_true_iff

theorem subCore_af_iff {n : Nat} (d x : BitVec n) : (subCore d x).af = true ↔ d.toNat % 16 < x.toNat % 16 := decide_eq_true_iff

/-- The difference of two values is that of the integers, modulo `2^n`. -/
theorem toNat_sub_eq_emod {n : Nat} (d x : BitVec n) : ((d - x).toNat : Int) = ((d.toNat : Int) - x.toNat) % 2 ^ n := by
  have hcast : ((2 ^ n - x.toNat + d.toNat : Nat) : Int) = d.toNat - x.toNat + 2 ^ n := by
    push_cast [x.isLt.le]
    ring
  rw [BitVec.toNat_sub, Int.natCast_mod, hcast]
  exact_mod_cast Int.add_emod_right ..

/-- Settles O21. -/
theorem addCoreRule : Obligations.AddCoreRule := by
  intro w d x
  refine ⟨BitVec.toNat_add d x, addCore_cf_iff d x, ?_, addCore_af_iff d x, addCore_ovf_iff d x⟩
  simp only [addCore, Bool.and_eq_true, beq_iff_eq, bne_iff_ne, BitVec.msb_eq_getLsbD_last]

/-- Settles O22. -/
theorem subCoreRule : Obligations.SubCoreRule := by
  intro w d x
  refine ⟨toNat_sub_eq_emod d x, subCore_cf_iff d x, ?_, subCore_af_iff d x, subCore_ovf_iff d x⟩
  simp only [subCore, Bool.and_eq_true, bne_iff_ne, BitVec.msb_eq_getLsbD_last]

/-! ## The flags of one step (R172, R202, R204, R207 to R209) -/

theorem resultFlags_ofAlu {n : Nat} (f : Flags) (a : Alu n) : ResultFlags a.res (f.ofAlu a) := resultFlags_setZSP _ _

theorem resultFlags_ofAluKeepCf {n : Nat} (f : Flags) (a : Alu n) : ResultFlags a.res (f.ofAluKeepCf a) := resultFlags_setZSP _ _

theorem sumFlags_ofAlu {n : Nat} (f : Flags) (d x : BitVec n) : SumFlags d x (f.ofAlu (addCore d x)) :=
  ⟨addCore_cf_iff d x, addCore_ovf_iff d x, addCore_af_iff d x⟩

theorem differenceFlags_ofAlu {n : Nat} (f : Flags) (d x : BitVec n) : DifferenceFlags d x (f.ofAlu (subCore d x)) :=
  ⟨subCore_cf_iff d x, subCore_ovf_iff d x, subCore_af_iff d x⟩

theorem sumOfAf_ofAluKeepCf {n : Nat} (f : Flags) (d x : BitVec n) : SumOfAf d x (f.ofAluKeepCf (addCore d x)) :=
  ⟨addCore_ovf_iff d x, addCore_af_iff d x⟩

theorem differenceOfAf_ofAluKeepCf {n : Nat} (f : Flags) (d x : BitVec n) :
    DifferenceOfAf d x (f.ofAluKeepCf (subCore d x)) :=
  ⟨subCore_ovf_iff d x, subCore_af_iff d x⟩

/-- `neg` has every flag of `0 - d` but CF (R209). -/
theorem differenceOfAf_negFlags {n : Nat} (f : Flags) (d : BitVec n) : DifferenceOfAf 0#n d (negFlags f d) :=
  differenceOfAf_ofAluKeepCf f 0#n d

theorem resultFlags_negFlags {n : Nat} (f : Flags) (d : BitVec n) : ResultFlags (0#n - d) (negFlags f d) :=
  resultFlags_ofAluKeepCf f (subCore 0#n d)

theorem negFlags_cf_iff {n : Nat} (f : Flags) (d : BitVec n) : (negFlags f d).cf = true ↔ 0#n - d ≠ 0#n := decide_eq_true_iff

/-! ## The two steps of `adc` and `sbb` (R203, R205, R210) -/

/-- A sum of three overflows where either of its two additions does. -/
theorem le_add_or_le_mod_add {m d c y : Nat} : (m ≤ d + c ∨ m ≤ (d + c) % m + y) ↔ m ≤ d + c + y := by
  by_cases h : d + c < m
  · rw [Nat.mod_eq_of_lt h]
    omega
  · omega

/-- A difference borrows where either of its two subtractions does. -/
theorem lt_or_mod_sub_lt {m d c y : Nat} (hd : d < m) (hc : c ≤ m) : (d < c ∨ (m - c + d) % m < y) ↔ d < c + y := by
  by_cases h : d < c
  · omega
  · have hmod : (m - c + d) % m = d - c := by
      rw [show m - c + d = d - c + m by omega, Nat.add_mod_right, Nat.mod_eq_of_lt (by omega)]
    omega

theorem carryIn_toNat (w : Width) (f : Flags) : (carryIn w.bits f).toNat = f.cf.toNat := by
  unfold carryIn
  cases f.cf <;> cases w <;> rfl

theorem carryIn_toInt (w : Width) (f : Flags) : (carryIn w.bits f).toInt = f.cf.toNat := by
  unfold carryIn
  cases f.cf <;> cases w <;> rfl

theorem add_carryIn (w : Width) (d : BitVec w.bits) (f : Flags) :
    d + carryIn w.bits f = BitVec.ofNat w.bits (d.toNat + f.cf.toNat) := by
  rw [← ofNat_add_toNat, carryIn_toNat]

theorem sub_carryIn (w : Width) (d : BitVec w.bits) (f : Flags) :
    d - carryIn w.bits f = BitVec.ofNat w.bits (d.toNat + 2 ^ w.bits - f.cf.toNat) := by
  rw [← ofNat_differenceNat, differenceNat, carryIn_toNat]
  exact BitVec.eq_of_toNat_eq (by simp)

section
variable {w : Width} (d : BitVec w.bits) (f : Flags) (source : BitVec w.bits → BitVec w.bits)

/-- CF of the two steps is the carry of the sum of three. -/
theorem twoStep_addCore_cf_iff :
    (twoStep addCore d (carryIn w.bits f) source).cf = true ↔
      2 ^ w.bits ≤ d.toNat + f.cf.toNat + (source (d + carryIn w.bits f)).toNat := by
  rw [twoStep, Bool.or_eq_true, addCore_cf_iff, addCore_cf_iff]
  change _ ∨ _ ≤ (d + carryIn w.bits f).toNat + _ ↔ _
  rw [BitVec.toNat_add, carryIn_toNat]
  exact le_add_or_le_mod_add

/-- CF of the two steps is the borrow of the difference of three. -/
theorem twoStep_subCore_cf_iff :
    (twoStep subCore d (carryIn w.bits f) source).cf = true ↔
      d.toNat < f.cf.toNat + (source (d - carryIn w.bits f)).toNat := by
  have hcarry : f.cf.toNat ≤ 2 ^ w.bits := carryIn_toNat w f ▸ (carryIn w.bits f).isLt.le
  rw [twoStep, Bool.or_eq_true, subCore_cf_iff, subCore_cf_iff]
  change _ ∨ (d - carryIn w.bits f).toNat < _ ↔ _
  rw [BitVec.toNat_sub, carryIn_toNat]
  exact lt_or_mod_sub_lt d.isLt hcarry

/-- OF of the two steps is the overflow of either. -/
theorem twoStep_addCore_ovf_iff :
    (twoStep addCore d (carryIn w.bits f) source).ovf = true ↔
      ¬ SignedFits w.bits (d.toInt + f.cf.toNat) ∨
        ¬ SignedFits w.bits ((d + carryIn w.bits f).toInt + (source (d + carryIn w.bits f)).toInt) := by
  rw [twoStep, Bool.or_eq_true, addCore_ovf_iff, addCore_ovf_iff, carryIn_toInt]
  rfl

theorem twoStep_subCore_ovf_iff :
    (twoStep subCore d (carryIn w.bits f) source).ovf = true ↔
      ¬ SignedFits w.bits (d.toInt - f.cf.toNat) ∨
        ¬ SignedFits w.bits ((d - carryIn w.bits f).toInt - (source (d - carryIn w.bits f)).toInt) := by
  rw [twoStep, Bool.or_eq_true, subCore_ovf_iff, subCore_ovf_iff, carryIn_toInt]
  rfl

end

/-- The source the model reads in step 2 is one R210 allows, whatever it draws. -/
theorem stepTwoReads_stepTwoSource {n : Nat} (s : State) (src : Src) (dst : Dst) (x u : BitVec n) :
    StepTwoReads s src dst x u (stepTwoSource src dst s x u) := by
  refine ⟨fun hview => ?_, fun hview => ?_⟩
  · rw [stepTwoSource, hview, if_neg Bool.false_ne_true]
  · rw [stepTwoSource, if_pos hview]
    unfold State.choose
    cases s.cfg.adcSbbAlias with
    | snapshot => rfl
    | inplace => rfl
    | either =>
      cases s.draw 0 with
      | false => exact .inl rfl
      | true => exact .inr rfl

theorem choseAlias_pc (src : Src) (dst : Dst) (s : State) : (choseAlias src dst s).pc = s.pc := by
  rw [choseAlias]
  split
  · exact State.chose_pc _ s
  · rfl

/-! ## The results of the instructions (R202 to R209) -/

/-- A two-operand instruction that writes an adder or subtractor outcome, over a state `u` kept from `s`: it completes, and
its flags are the outcome's. -/
theorem binaryOp_alu_completes {s u : State} {w : Width} {src : Src} {dst : Dst} {d x : BitVec w.bits}
    (core : BitVec w.bits → BitVec w.bits → Alu w.bits) (hready : s.Ready) (hwf : wfBinary s.cfg w src dst = true)
    (hd : s.dstVal w dst = .ok d) (hx : s.srcVal w src = .ok x) (hu : Keeps s u) (hpc : u.pc = s.pc) :
    ∃ t, binaryOp w src dst (fun d x => ((core d x).res, u.withFlags (s.flags.ofAlu (core d x)))) s = .next t ∧
      Continues s t ∧ DstHolds w dst s t (core d x).res ∧ t.flags = s.flags.ofAlu (core d x) :=
  binaryOp_completes hready (Bool.and_elim_right (wfBinary_iff.mp hwf).1) hd hx (hu.withFlags _) hpc

/-- Settles O30. -/
theorem addResult : Obligations.AddResult := by
  intro s w src dst d x hready hwf hd hx
  obtain ⟨t, ht, hcont, hold, hflags⟩ := binaryOp_alu_completes addCore hready hwf hd hx (Keeps.refl s) rfl
  refine ⟨t, ht, hcont, ?_⟩
  rw [ofNat_add_toNat, hflags]
  exact ⟨hold, sumFlags_ofAlu s.flags d x, resultFlags_ofAlu s.flags (addCore d x)⟩

/-- Settles O32. -/
theorem subResult : Obligations.SubResult := by
  intro s w src dst d x hready hwf hd hx
  obtain ⟨t, ht, hcont, hold, hflags⟩ := binaryOp_alu_completes subCore hready hwf hd hx (Keeps.refl s) rfl
  refine ⟨t, ht, hcont, ?_⟩
  rw [ofNat_differenceNat, hflags]
  exact ⟨hold, differenceFlags_ofAlu s.flags d x, resultFlags_ofAlu s.flags (subCore d x)⟩

/-- Settles O31: the flags of the two steps, with step 1's sum `u` and the source `y` the model read. -/
theorem adcResult : Obligations.AdcResult := by
  intro s w src dst d x hready hwf hd hx
  obtain ⟨t, ht, hcont, hold, hflags⟩ := binaryOp_alu_completes
    (fun d x => twoStep addCore d (carryIn w.bits s.flags) (stepTwoSource src dst s x)) hready hwf hd hx
    (Keeps.choseAlias src dst s) (choseAlias_pc src dst s)
  refine ⟨t, d + carryIn w.bits s.flags, stepTwoSource src dst s x (d + carryIn w.bits s.flags), ht, hcont,
    add_carryIn w d s.flags, stepTwoReads_stepTwoSource s src dst x _, ?_⟩
  rw [ofNat_add_toNat, hflags]
  exact ⟨hold, twoStep_addCore_cf_iff d s.flags _, twoStep_addCore_ovf_iff d s.flags _, addCore_af_iff _ _,
    resultFlags_ofAlu s.flags _⟩

/-- Settles O33: the flags of the two steps, with step 1's difference `u` and the source `y` the model read. -/
theorem sbbResult : Obligations.SbbResult := by
  intro s w src dst d x hready hwf hd hx
  obtain ⟨t, ht, hcont, hold, hflags⟩ := binaryOp_alu_completes
    (fun d x => twoStep subCore d (carryIn w.bits s.flags) (stepTwoSource src dst s x)) hready hwf hd hx
    (Keeps.choseAlias src dst s) (choseAlias_pc src dst s)
  refine ⟨t, d - carryIn w.bits s.flags, stepTwoSource src dst s x (d - carryIn w.bits s.flags), ht, hcont,
    sub_carryIn w d s.flags, stepTwoReads_stepTwoSource s src dst x _, ?_⟩
  rw [ofNat_differenceNat, hflags]
  exact ⟨hold, twoStep_subCore_cf_iff d s.flags _, twoStep_subCore_ovf_iff d s.flags _, subCore_af_iff _ _,
    resultFlags_ofAlu s.flags _⟩

/-- Settles O34. -/
theorem cmpResult : Obligations.CmpResult := by
  intro s w src dst d x hready hwf hd hx
  obtain ⟨ht, hcont⟩ := compareOp_completes (f := fun d x => s.withFlags (s.flags.ofAlu (subCore d x))) hready.2 hd hx
    ((Keeps.refl s).withFlags _) rfl
  rw [ofNat_differenceNat]
  exact ⟨_, ht, hcont, rfl, rfl, differenceFlags_ofAlu s.flags d x, resultFlags_ofAlu s.flags (subCore d x)⟩

/-- A one-operand instruction writes its result and its flags over the state it begins in. -/
theorem unaryOp_alu_completes {s : State} {w : Width} {dst : Dst} {d : BitVec w.bits} (res : BitVec w.bits → BitVec w.bits)
    (flags : BitVec w.bits → Flags) (hready : s.Ready) (hwf : wfUnary s.cfg w dst = true) (hd : s.dstVal w dst = .ok d) :
    ∃ t, unaryOp w dst (fun d => (res d, s.withFlags (flags d))) s = .next t ∧ Continues s t ∧
      DstHolds w dst s t (res d) ∧ t.flags = flags d :=
  unaryOp_completes hready (wfUnary_iff.mp hwf).1 hd ((Keeps.refl s).withFlags _) rfl

/-- Settles O35. -/
theorem incDecResult : Obligations.IncDecResult := by
  intro s w dst d hready hwf hd
  constructor
  · obtain ⟨t, ht, hcont, hold, hflags⟩ := unaryOp_alu_completes (fun d => (addCore d 1#w.bits).res)
      (fun d => s.flags.ofAluKeepCf (addCore d 1#w.bits)) hready hwf hd
    have hres : BitVec.ofNat w.bits (d.toNat + 1) = d + 1#w.bits := by simp [BitVec.ofNat_add]
    refine ⟨t, ht, hcont, ?_⟩
    rw [hres, hflags]
    exact ⟨hold, rfl, sumOfAf_ofAluKeepCf s.flags d _, resultFlags_ofAluKeepCf s.flags (addCore d _)⟩
  · obtain ⟨t, ht, hcont, hold, hflags⟩ := unaryOp_alu_completes (fun d => (subCore d 1#w.bits).res)
      (fun d => s.flags.ofAluKeepCf (subCore d 1#w.bits)) hready hwf hd
    refine ⟨t, ht, hcont, ?_⟩
    rw [ofNat_differenceNat, hflags]
    exact ⟨hold, rfl, differenceOfAf_ofAluKeepCf s.flags d _, resultFlags_ofAluKeepCf s.flags (subCore d _)⟩

theorem ofNat_two_pow_sub_toNat {n : Nat} (d : BitVec n) : BitVec.ofNat n (2 ^ n - d.toNat) = 0#n - d :=
  BitVec.eq_of_toNat_eq (by simp)

/-- Settles O36. -/
theorem negResult : Obligations.NegResult := by
  intro s w dst d hready hwf hd
  obtain ⟨t, ht, hcont, hold, hflags⟩ :=
    unaryOp_alu_completes (fun d => (subCore 0#w.bits d).res) (negFlags s.flags) hready hwf hd
  refine ⟨t, ht, hcont, ?_⟩
  rw [ofNat_two_pow_sub_toNat, hflags]
  exact ⟨hold, negFlags_cf_iff s.flags d, differenceOfAf_negFlags s.flags d, resultFlags_negFlags s.flags d⟩

end Sys2Proof.Machine
end

section
/-! Bitwise logic (42_logic.md): the flags of a logic result, then the results of the five instructions. -/

namespace Sys2Proof.Machine

/-! ## The flags of a logic result (R171, R240) -/

/-- `ClearFlags()` makes the flags of its scope false and leaves the others. -/
theorem get_clearScope_eq_ite (f : Flags) (scope : ClearScope) (n : FlagName) :
    (f.clearScope scope).get n = if n ∈ clearSet scope then false else f.get n := by
  split
  · exact get_clearScope_of_mem f scope n ‹_›
  · exact get_clearScope f scope n ‹_›

/-- `LogicFlags` sets the status flags; on every other flag it is `ClearFlags()`. -/
theorem get_logic_of_not_status {m : Nat} (f : Flags) (scope : ClearScope) (r : BitVec m) (n : FlagName)
    (hn : n ∉ statusFlags) : (f.logic scope r).get n = if n ∈ clearSet scope then false else f.get n :=
  (get_of_not_status (f.clearScope scope) _ _ _ _ _ _ n hn).trans (get_clearScope_eq_ite f scope n)

/-- What a state with the flags of the logic result `r` shows: it is what R240 says of `and`, `or`, `xor` and `test`. -/
theorem flags_of_eq_logic {s t : State} {n : Nat} {r : BitVec n} (h : t.flags = s.flags.logic s.cfg.clearScope r) :
    t.flags.cf = false ∧ t.flags.ovf = false ∧ t.flags.af = false ∧ ResultFlags r t.flags ∧ OtherFlagsCleared s t := by
  rw [OtherFlagsCleared, h]
  exact ⟨rfl, rfl, rfl, resultFlags_setZSP _ r, get_logic_of_not_status s.flags s.cfg.clearScope r⟩

/-! ## The results of the instructions (R241 to R245) -/

/-- A two-operand instruction that writes `op d x` with its logic flags, where `op` works bit by bit as `bit` does. -/
theorem binaryOp_logic_completes {s : State} {w : Width} {src : Src} {dst : Dst} {d x : BitVec w.bits}
    (op : BitVec w.bits → BitVec w.bits → BitVec w.bits) {bit : Bool → Bool → Bool}
    (hbit : ∀ k, (op d x).getLsbD k = bit (d.getLsbD k) (x.getLsbD k)) (hready : s.Ready)
    (hwf : wfBinary s.cfg w src dst = true) (hd : s.dstVal w dst = .ok d) (hx : s.srcVal w src = .ok x) :
    ∃ (t : State) (r : BitVec w.bits), binaryOp w src dst (fun d x => (op d x, logicFlags s (op d x))) s = .next t ∧
      Continues s t ∧ (∀ k < w.bits, r.getLsbD k = bit (d.getLsbD k) (x.getLsbD k)) ∧ DstHolds w dst s t r ∧
      t.flags.cf = false ∧ t.flags.ovf = false ∧ t.flags.af = false ∧ ResultFlags r t.flags ∧ OtherFlagsCleared s t := by
  obtain ⟨hoperands, -, -⟩ := wfBinary_iff.mp hwf
  obtain ⟨t, ht, hcont, hold, hflags⟩ := binaryOp_completes (f := fun d x => (op d x, logicFlags s (op d x))) hready
    (Bool.and_elim_right hoperands) hd hx (Keeps.logicFlags s _) rfl
  exact ⟨t, op d x, ht, hcont, fun k _ => hbit k, hold, flags_of_eq_logic hflags⟩

/-- Settles O37: the three instructions are one shape over three bitwise operations. -/
theorem logicResult : Obligations.LogicResult := by
  simp only [Obligations.LogicResult, List.forall_mem_cons, List.not_mem_nil, IsEmpty.forall_iff, implies_true, and_true]
  refine ⟨?and, ?or, ?xor⟩
  case and => exact fun _ _ _ _ _ _ => binaryOp_logic_completes (· &&& ·) fun _ => BitVec.getLsbD_and
  case or => exact fun _ _ _ _ _ _ => binaryOp_logic_completes (· ||| ·) fun _ => BitVec.getLsbD_or
  case xor => exact fun _ _ _ _ _ _ => binaryOp_logic_completes (· ^^^ ·) fun _ => BitVec.getLsbD_xor

/-- Settles O38: `test` leaves its operands, and its flags are those of a logic result. -/
theorem testResult : Obligations.TestResult := by
  intro s w src dst d x hready _ hd hx
  obtain ⟨ht, hcont⟩ := compareOp_completes (f := fun d x => logicFlags s (d &&& x)) hready.2 hd hx
    (Keeps.logicFlags s _) rfl
  exact ⟨_, ht, hcont, rfl, rfl, flags_of_eq_logic rfl⟩

theorem ofNat_two_pow_sub_one_sub_toNat {n : Nat} (d : BitVec n) : BitVec.ofNat n (2 ^ n - 1 - d.toNat) = ~~~d := by
  rw [← BitVec.toNat_not, BitVec.ofNat_toNat, BitVec.setWidth_eq]

/-- Settles O39. -/
theorem notResult : Obligations.NotResult := by
  intro s w dst d hready hwf hd
  rw [ofNat_two_pow_sub_one_sub_toNat]
  exact unaryOp_completes (f := fun d => (~~~d, s)) hready (wfUnary_iff.mp hwf).1 hd (Keeps.refl s) rfl

end Sys2Proof.Machine
end

section
/-! Multiply and divide (43_multiply_divide.md): integers narrowed to words, the register pair `edx:eax`, then the results of the four
instructions and the two divide errors. -/

namespace Sys2Proof.Machine

/-! ## Integers narrowed to words -/

/-- Narrowing to `n` bits keeps exactly the integers that fit. -/
theorem toInt_ofInt_eq_iff_signedFits {n : Nat} (hn : 0 < n) (z : Int) : (BitVec.ofInt n z).toInt = z ↔ SignedFits n z :=
  ⟨fun h => h ▸ ⟨BitVec.le_toInt _, BitVec.toInt_lt⟩, fun ⟨hlow, hhigh⟩ => BitVec.toInt_ofInt_eq_self hn hlow hhigh⟩

theorem toNat_ofInt_eq_emod (n : Nat) (z : Int) : ((BitVec.ofInt n z).toNat : Int) = z % 2 ^ n := by
  rw [BitVec.toNat_ofInt, Int.toNat_of_nonneg (Int.emod_nonneg z (by positivity))]
  push_cast
  rfl

/-- The product of two signed words fits a double word. -/
theorem signedFits_toInt_mul_toInt (d x : Word) : SignedFits 64 (d.toInt * x.toInt) := by
  have hlow := BitVec.le_toInt_mul_toInt (x := d) (y := x)
  have hhigh := BitVec.toInt_mul_toInt_le (x := d) (y := x)
  constructor <;> omega

/-- The low word of a double word sign-extends to the whole exactly where the whole fits a word. -/
theorem signExtend_ofInt_eq_iff_signedFits {z : Int} (h : SignedFits 64 z) :
    (BitVec.ofInt 32 z).signExtend 64 = BitVec.ofInt 64 z ↔ SignedFits 32 z := by
  rw [← BitVec.toInt_inj, BitVec.toInt_signExtend_of_le (by decide),
    (toInt_ofInt_eq_iff_signedFits (by decide) z).mpr h, toInt_ofInt_eq_iff_signedFits (by decide)]

theorem toInt_eq_zero_iff_toNat_eq_zero {n : Nat} (x : BitVec n) : x.toInt = 0 ↔ x.toNat = 0 := by
  rw [← BitVec.toInt_zero, BitVec.toInt_inj, ← BitVec.toNat_inj, BitVec.toNat_ofNat, Nat.zero_mod]

/-- A remainder by a signed word fits a word. -/
theorem signedFits_tmod_toInt (z : Int) {x : Word} (h : x.toInt ≠ 0) : SignedFits 32 (z.tmod x.toInt) := by
  have hlow := BitVec.le_toInt x
  have hhigh := BitVec.toInt_lt (x := x)
  have hlt : (z.tmod x.toInt).natAbs < x.toInt.natAbs :=
    Int.natAbs_tmod z x.toInt ▸ Nat.mod_lt _ (Int.natAbs_pos.mpr h)
  constructor <;> omega

/-! ## The register pair `edx:eax` -/

@[simp] theorem State.cell_setEaxEdx_eax (a d : Word) (s : State) : (setEaxEdx a d s).cell .eax = a := by
  simp [setEaxEdx]

@[simp] theorem State.cell_setEaxEdx_edx (a d : Word) (s : State) : (setEaxEdx a d s).cell .edx = d := by
  simp [setEaxEdx]

/-! ## Multiply (R260 to R262) -/

/-- The two words of a product make up the product. -/
theorem toNat_ofNat_div_mul_add_toNat_ofNat (d x : Word) :
    (BitVec.ofNat 32 (d.toNat * x.toNat / 2 ^ 32)).toNat * 2 ^ 32 + (BitVec.ofNat 32 (d.toNat * x.toNat)).toNat =
      d.toNat * x.toNat := by
  have hlt : d.toNat * x.toNat < 2 ^ 32 * 2 ^ 32 := Nat.mul_lt_mul'' d.isLt x.isLt
  rw [BitVec.toNat_ofNat, BitVec.toNat_ofNat, Nat.mod_eq_of_lt (Nat.div_lt_of_lt_mul hlt), Nat.div_add_mod']

theorem decide_ne_zero_iff_toNat_ne_zero {n : Nat} (x : BitVec n) : decide (x ≠ 0#n) = true ↔ x.toNat ≠ 0 :=
  decide_eq_true_iff.trans BitVec.toNat_ne_iff_ne.symm

/-- Settles O40: `edx` and `eax` are the product's two words, and the flags speak of these. -/
theorem mulResult : Obligations.MulResult := by
  intro s src x hexit hx
  obtain ⟨ht, hcont⟩ : execMul src s = .next (State.advance _) ∧ Continues s _ :=
    sourceOp_completes hexit hx rfl ((((Keeps.refl s).setEaxEdx _ _).withFlags _).drew 1) rfl
  refine ⟨_, ht, hcont, ?_⟩
  simp only [State.cell_advance, State.cell_drew, State.cell_withFlags, State.cell_setEaxEdx_eax, State.cell_setEaxEdx_edx]
  exact ⟨toNat_ofNat_div_mul_add_toNat_ofNat _ x, decide_ne_zero_iff_toNat_ne_zero _, decide_ne_zero_iff_toNat_ne_zero _,
    resultFlags_setZSP _ _⟩

/-- CF of a signed product says that it does not fit a word. -/
theorem imulFlags_cf_iff (s : State) (d x : Word) :
    (imulFlags s (d.toInt * x.toInt)).cf = true ↔ ¬ SignedFits 32 (d.toInt * x.toInt) :=
  decide_eq_true_iff.trans (signExtend_ofInt_eq_iff_signedFits (signedFits_toInt_mul_toInt d x)).not

/-- The one-operand form leaves the whole signed product in `edx:eax`. -/
theorem toInt_imulOne (s : State) (x : Word) :
    ((imulOne s x).cell .edx ++ (imulOne s x).cell .eax).toInt = (s.cell .eax).toInt * x.toInt := by
  simp only [imulOne, State.cell_drew, State.cell_withFlags, State.cell_setEaxEdx_eax, State.cell_setEaxEdx_edx]
  rw [BitVec.extractLsb'_append_extractLsb']
  exact (toInt_ofInt_eq_iff_signedFits (by decide) _).mpr (signedFits_toInt_mul_toInt _ x)

/-- The two-operand form leaves the low word of the product in its destination. -/
theorem toNat_imulTwo (s : State) (x : Word) (c : Cell) :
    (((imulTwo s x c).cell c).toNat : Int) = (s.cell c).toInt * x.toInt % 2 ^ 32 := by
  rw [imulTwo, State.cell_drew, State.cell_withFlags, State.cell_setCell, if_pos rfl, toNat_ofInt_eq_emod]

/-- Settles O41, one case per form. -/
theorem imulResult : Obligations.ImulResult := by
  intro s src x hexit hx
  refine ⟨?one, fun c => ?two⟩
  case one =>
    obtain ⟨ht, hcont⟩ : execImul src none s = .next (imulOne s x).advance ∧ Continues s _ :=
      sourceOp_completes hexit hx rfl ((((Keeps.refl s).setEaxEdx _ _).withFlags _).drew 4) rfl
    exact ⟨_, ht, hcont, toInt_imulOne s x, imulFlags_cf_iff s _ x, rfl⟩
  case two =>
    obtain ⟨ht, hcont⟩ : execImul src (some c) s = .next (imulTwo s x c).advance ∧ Continues s _ :=
      sourceOp_completes hexit hx rfl ((((Keeps.refl s).setCell c _).withFlags _).drew 4) rfl
    exact ⟨_, ht, hcont, toNat_imulTwo s x c, imulFlags_cf_iff s _ x, rfl⟩

/-! ## Divide (R263, R264, R406) -/

@[simp] theorem State.cell_divide_eax (q m : Word) (s : State) : (divide q m s).cell .eax = q := State.cell_setEaxEdx_eax q m s

@[simp] theorem State.cell_divide_edx (q m : Word) (s : State) : (divide q m s).cell .edx = m := State.cell_setEaxEdx_edx q m s

section
variable {s : State} {src : Src} {x : Word}

/-- `div` by zero. -/
theorem execDiv_of_zero (hx : s.srcVal .w32 src = .ok x) (h0 : x.toNat = 0) :
    execDiv src s = .next (s.raise .divisionByZero) :=
  sourceOp_error hx (if_pos h0)

/-- `idiv` by zero. -/
theorem execIdiv_of_zero (hx : s.srcVal .w32 src = .ok x) (h0 : x.toInt = 0) :
    execIdiv src s = .next (s.raise .divisionByZero) :=
  sourceOp_error hx (if_pos h0)

/-- `div` with a quotient that does not fit. -/
theorem execDiv_of_overflow (hx : s.srcVal .w32 src = .ok x) (h0 : x.toNat ≠ 0)
    (hq : 2 ^ 32 ≤ (dividend s).toNat / x.toNat) : execDiv src s = .next (s.raise .quotientOverflow) :=
  sourceOp_error hx ((if_neg h0).trans (if_pos hq))

/-- The model's bounds on a signed quotient. -/
theorem outside_iff_not_signedFits {q : Int} : q < -(2 ^ 31) ∨ 2 ^ 31 - 1 < q ↔ ¬ SignedFits 32 q := by
  rw [SignedFits]
  omega

/-- `idiv` with a quotient that does not fit. -/
theorem execIdiv_of_overflow (hx : s.srcVal .w32 src = .ok x) (h0 : x.toInt ≠ 0)
    (hq : ¬ SignedFits 32 ((dividend s).toInt.tdiv x.toInt)) : execIdiv src s = .next (s.raise .quotientOverflow) :=
  sourceOp_error hx ((if_neg h0).trans (if_pos (outside_iff_not_signedFits.mpr hq)))

/-- `div` with a quotient that fits. -/
theorem execDiv_completes (hexit : s.exit = false) (hx : s.srcVal .w32 src = .ok x) (h0 : x.toNat ≠ 0)
    (hq : (dividend s).toNat / x.toNat < 2 ^ 32) :
    ∃ t, execDiv src s = .next t ∧ Continues s t ∧ (t.cell .eax).toNat = (dividend s).toNat / x.toNat ∧
      (t.cell .edx).toNat = (dividend s).toNat % x.toNat := by
  obtain ⟨ht, hcont⟩ : execDiv src s = .next (divide _ _ s).advance ∧ Continues s _ :=
    sourceOp_completes hexit hx ((if_neg h0).trans (if_neg hq.not_ge)) (.divide _ _) rfl
  have hm : (dividend s).toNat % x.toNat < 2 ^ 32 := (Nat.mod_lt _ (Nat.pos_of_ne_zero h0)).trans x.isLt
  refine ⟨_, ht, hcont, ?_⟩
  rw [State.cell_advance, State.cell_advance, State.cell_divide_eax, State.cell_divide_edx, BitVec.toNat_ofNat,
    BitVec.toNat_ofNat, Nat.mod_eq_of_lt hq, Nat.mod_eq_of_lt hm]
  exact ⟨rfl, rfl⟩

/-- `idiv` with a quotient that fits. -/
theorem execIdiv_completes (hexit : s.exit = false) (hx : s.srcVal .w32 src = .ok x) (h0 : x.toInt ≠ 0)
    (hq : SignedFits 32 ((dividend s).toInt.tdiv x.toInt)) :
    ∃ t, execIdiv src s = .next t ∧ Continues s t ∧ (t.cell .eax).toInt = (dividend s).toInt.tdiv x.toInt ∧
      (t.cell .edx).toInt = (dividend s).toInt.tmod x.toInt := by
  obtain ⟨ht, hcont⟩ : execIdiv src s = .next (divide _ _ s).advance ∧ Continues s _ :=
    sourceOp_completes hexit hx ((if_neg h0).trans (if_neg fun h => outside_iff_not_signedFits.mp h hq)) (.divide _ _) rfl
  refine ⟨_, ht, hcont, ?_⟩
  rw [State.cell_advance, State.cell_advance, State.cell_divide_eax, State.cell_divide_edx, Int.mul_comm, ← Int.tmod_def]
  exact ⟨(toInt_ofInt_eq_iff_signedFits (by decide) _).mpr hq,
    (toInt_ofInt_eq_iff_signedFits (by decide) _).mpr (signedFits_tmod_toInt _ h0)⟩

end

/-- Settles O42: each divide completes; a divisor's two readings are zero together. -/
theorem divideResult : Obligations.DivideResult := fun _ _ x hexit hx h0 =>
  ⟨execDiv_completes hexit hx h0, execIdiv_completes hexit hx (mt (toInt_eq_zero_iff_toNat_eq_zero x).mp h0)⟩

/-- Settles O43: the first two branches of each divide. -/
theorem divideErrors : Obligations.DivideErrors := fun _ _ x hx =>
  ⟨fun h0 => ⟨execDiv_of_zero hx h0, execIdiv_of_zero hx ((toInt_eq_zero_iff_toNat_eq_zero x).mpr h0)⟩,
    execDiv_of_overflow hx, fun h0 => execIdiv_of_overflow hx (mt (toInt_eq_zero_iff_toNat_eq_zero x).mp h0)⟩

end Sys2Proof.Machine
end

section
/-! Shifts and rotates (44_shift_rotate.md): rotations and one-bit steps bit by bit, the closed forms of the loops and the laws of
rotation, then the results of the eight instructions. -/

namespace Sys2Proof.Machine

/-! ## Rotations -/

section
variable {w : Nat} (x : BitVec w)

theorem getLsbD_rotateLeft_one {i : Nat} (hi : i < w) :
    (x.rotateLeft 1).getLsbD i = if i = 0 then x.msb else x.getLsbD (i - 1) := by
  rw [BitVec.getLsbD_rotateLeft, BitVec.msb_eq_getLsbD_last]
  obtain rfl | hw : w = 1 ∨ 1 < w := by omega
  · obtain rfl : i = 0 := by omega
    rfl
  · rw [Nat.mod_eq_of_lt hw]
    by_cases h0 : i = 0 <;> simp [h0, hi]

theorem getLsbD_rotateRight_one {i : Nat} (hi : i < w) :
    (x.rotateRight 1).getLsbD i = if i + 1 = w then x.getLsbD 0 else x.getLsbD (i + 1) := by
  rw [BitVec.getLsbD_rotateRight]
  obtain rfl | hw : w = 1 ∨ 1 < w := by omega
  · obtain rfl : i = 0 := by omega
    rfl
  · rw [Nat.mod_eq_of_lt hw]
    by_cases hlast : i + 1 = w
    · simp [hlast, hi, show ¬ i < w - 1 by omega, show i - (w - 1) = 0 by omega]
    · simp [hlast, show i < w - 1 by omega, Nat.add_comm]

theorem rotateRight_rotateLeft (n : Nat) : (x.rotateLeft n).rotateRight n = x := by
  refine BitVec.eq_of_getLsbD_eq fun i hi => ?_
  have hn : n % w < w := Nat.mod_lt n (by omega)
  rw [BitVec.getLsbD_rotateRight]
  by_cases h : i < w - n % w
  · simp only [h, decide_true, cond_true, BitVec.getLsbD_rotateLeft, show ¬ n % w + i < n % w by omega, decide_false, cond_false,
      show n % w + i < w by omega, Bool.true_and, Nat.add_sub_cancel_left]
  · simp [h, hi, BitVec.getLsbD_rotateLeft, show i - (w - n % w) < n % w by omega,
      show w - n % w + (i - (w - n % w)) = i by omega]

theorem rotateLeft_rotateRight (n : Nat) : (x.rotateRight n).rotateLeft n = x := by
  refine BitVec.eq_of_getLsbD_eq fun i hi => ?_
  have hn : n % w < w := Nat.mod_lt n (by omega)
  rw [BitVec.getLsbD_rotateLeft]
  by_cases h : i < n % w
  · simp only [h, decide_true, cond_true, BitVec.getLsbD_rotateRight, show ¬ w - n % w + i < w - n % w by omega, decide_false,
      cond_false, show w - n % w + i < w by omega, Bool.true_and, Nat.add_sub_cancel_left]
  · simp [h, hi, BitVec.getLsbD_rotateRight, show i - n % w < w - n % w by omega,
      show n % w + (i - n % w) = i by omega]

theorem rotateLeft_zero : x.rotateLeft 0 = x := by
  rw [BitVec.rotateLeft_def, Nat.zero_mod, Nat.sub_zero, BitVec.shiftLeft_zero, BitVec.ushiftRight_eq_zero le_rfl, BitVec.or_zero]

theorem rotateRight_zero : x.rotateRight 0 = x := by
  rw [BitVec.rotateRight_def, Nat.zero_mod, Nat.sub_zero, BitVec.ushiftRight_zero, BitVec.shiftLeft_eq_zero le_rfl, BitVec.or_zero]

theorem rotateLeft_rotateLeft (m n : Nat) : (x.rotateLeft m).rotateLeft n = x.rotateLeft (m + n) := by
  refine BitVec.eq_of_getMsbD_eq fun i hi => ?_
  rw [BitVec.getMsbD_rotateLeft, BitVec.getMsbD_rotateLeft, BitVec.getMsbD_rotateLeft, Nat.add_mod_mod, Nat.add_assoc]
  simp [hi, Nat.mod_lt (n + i) (Nat.zero_lt_of_lt hi)]

/-- Rotations to the right add up because their inverses do. -/
theorem rotateRight_rotateRight (m n : Nat) : (x.rotateRight m).rotateRight n = x.rotateRight (m + n) := by
  rw [← rotateRight_rotateLeft ((x.rotateRight m).rotateRight n) (n + m), ← rotateLeft_rotateLeft, rotateLeft_rotateRight,
    rotateLeft_rotateRight, Nat.add_comm]

end

/-! ## The one-bit steps (R281 to R287) -/

section
variable {w : Nat} (r : BitVec w) (b : Bool)

theorem getLsbD_stepLeft {i : Nat} (hi : i < w) :
    (stepLeft r b).getLsbD i = if i = 0 then b else r.getLsbD (i - 1) := by
  rw [stepLeft, BitVec.getLsbD_or, BitVec.getLsbD_shiftLeft, BitVec.getLsbD_setWidth, BitVec.getLsbD_ofBool]
  by_cases h0 : i = 0
  · simp [h0, show 0 < w by omega]
  · simp [h0, hi]

theorem getLsbD_stepRight {i : Nat} (hi : i < w) :
    (stepRight r b).getLsbD i = if i + 1 = w then b else r.getLsbD (i + 1) := by
  by_cases h : i + 1 = w
  · subst h
    simp [stepRight]
  · simp [stepRight, h, show i < w - 1 by omega, Nat.add_comm]

theorem stepLeft_msb : stepLeft r r.msb = r.rotateLeft 1 :=
  BitVec.eq_of_getLsbD_eq fun i hi => by rw [getLsbD_stepLeft r _ hi, getLsbD_rotateLeft_one r hi]

theorem stepRight_lsb : stepRight r (r.getLsbD 0) = r.rotateRight 1 :=
  BitVec.eq_of_getLsbD_eq fun i hi => by rw [getLsbD_stepRight r _ hi, getLsbD_rotateRight_one r hi]

theorem stepLeft_false : stepLeft r false = r <<< 1 := by simp [stepLeft]

theorem stepRight_false : stepRight r false = r >>> 1 := by simp [stepRight]

theorem stepRight_msb : stepRight r r.msb = r.sshiftRight 1 := by
  refine BitVec.eq_of_getLsbD_eq fun i hi => ?_
  rw [getLsbD_stepRight r _ hi, BitVec.getLsbD_sshiftRight]
  by_cases h : i + 1 = w
  · simp [h, Nat.add_comm, hi]
  · simp [h, Nat.add_comm, hi, show i + 1 < w by omega]

/-- A value and a carry as one ring of `w + 1` bits, the carry on top. -/
def carryRing (p : BitVec w × Bool) : BitVec (1 + w) := BitVec.ofBool p.2 ++ p.1

theorem getLsbD_carryRing (p : BitVec w × Bool) {i : Nat} (hi : i < 1 + w) :
    (carryRing p).getLsbD i = if i = w then p.2 else p.1.getLsbD i := by
  rw [carryRing, BitVec.getLsbD_append, BitVec.getLsbD_ofBool]
  by_cases h : i = w
  · simp [h]
  · simp [h, show i < w by omega]

theorem carryRing_rclStep (h : 0 < w) (p : BitVec w × Bool) : carryRing (rclStep p) = (carryRing p).rotateLeft 1 := by
  refine BitVec.eq_of_getLsbD_eq fun i hi => ?_
  rw [getLsbD_rotateLeft_one _ hi, getLsbD_carryRing _ hi, BitVec.msb_eq_getLsbD_last, getLsbD_carryRing _ (by omega),
    getLsbD_carryRing _ (by omega), rclStep, BitVec.msb_eq_getLsbD_last]
  by_cases hw : i = w
  · simp [hw, show w ≠ 0 by omega, show w - 1 ≠ w by omega]
  · simp [hw, getLsbD_stepLeft p.1 p.2 (show i < w by omega), show i - 1 ≠ w by omega]

theorem carryRing_rcrStep (h : 0 < w) (p : BitVec w × Bool) : carryRing (rcrStep p) = (carryRing p).rotateRight 1 := by
  refine BitVec.eq_of_getLsbD_eq fun i hi => ?_
  rw [getLsbD_rotateRight_one _ hi, getLsbD_carryRing _ hi, getLsbD_carryRing _ (by omega)]
  by_cases hw : i = w
  · simp [hw, rcrStep, h.ne, Nat.add_comm]
  · rw [getLsbD_carryRing _ (by omega)]
    simp [hw, rcrStep, getLsbD_stepRight p.1 p.2 (show i < w by omega), show i + 1 ≠ 1 + w by omega]

theorem carryRing_injective : Function.Injective (carryRing (w := w)) := by
  intro p q h
  have hbit {i : Nat} (hi : i < 1 + w) : (if i = w then p.2 else p.1.getLsbD i) = if i = w then q.2 else q.1.getLsbD i := by
    rw [← getLsbD_carryRing p hi, h, getLsbD_carryRing q hi]
  refine Prod.ext (BitVec.eq_of_getLsbD_eq fun i hi => ?_) ?_
  · simpa only [hi.ne, if_false] using hbit (show i < 1 + w by omega)
  · simpa only [if_true] using hbit (show w < 1 + w by omega)

end

/-! ## The loops in closed form (R288) -/

theorem iterate_succ_apply {α : Type} (f : α → α) (n : Nat) (a : α) : iterate f (n + 1) a = f (iterate f n a) := by
  induction n generalizing a with
  | zero => rfl
  | succ n ih => exact ih (f a)

/-- What a loop shows of its state, given what each step makes of it. -/
theorem view_iterate {α β : Type} {f : α → α} {a : α} {view : α → β} {closed : Nat → β} (zero : closed 0 = view a)
    (succ : ∀ n b, view b = closed n → view (f b) = closed (n + 1)) (n : Nat) : view (iterate f n a) = closed n := by
  induction n with
  | zero => exact zero.symm
  | succ n ih =>
    rw [iterate_succ_apply]
    exact succ n _ ih

section
variable {w : Nat} (d : BitVec w) (c : Bool) (p : BitVec w × Bool) (n : Nat)

theorem iterate_rolStep_fst : (iterate rolStep n (d, c)).1 = d.rotateLeft n := by
  refine view_iterate (rotateLeft_zero d) (fun n p hp => ?_) n
  rw [rolStep, stepLeft_msb, hp, rotateLeft_rotateLeft]

theorem iterate_rorStep_fst : (iterate rorStep n (d, c)).1 = d.rotateRight n := by
  refine view_iterate (rotateRight_zero d) (fun n p hp => ?_) n
  rw [rorStep, stepRight_lsb, hp, rotateRight_rotateRight]

theorem carryRing_iterate_rclStep (hw : 0 < w) : carryRing (iterate rclStep n p) = (carryRing p).rotateLeft n := by
  refine view_iterate (rotateLeft_zero _) (fun n p hp => ?_) n
  rw [carryRing_rclStep hw, hp, rotateLeft_rotateLeft]

theorem carryRing_iterate_rcrStep (hw : 0 < w) : carryRing (iterate rcrStep n p) = (carryRing p).rotateRight n := by
  refine view_iterate (rotateRight_zero _) (fun n p hp => ?_) n
  rw [carryRing_rcrStep hw, hp, rotateRight_rotateRight]

theorem iterate_shlStep_fst : (iterate shlStep n (d, c)).1 = d <<< n := by
  refine view_iterate (BitVec.shiftLeft_zero d) (fun n p hp => ?_) n
  rw [shlStep, stepLeft_false, hp, BitVec.shiftLeft_add]

theorem iterate_shrStep_fst : (iterate shrStep n (d, c)).1 = d >>> n := by
  refine view_iterate (BitVec.ushiftRight_zero d) (fun n p hp => ?_) n
  rw [shrStep, stepRight_false, hp, BitVec.shiftRight_add]

theorem iterate_sarStep_fst : (iterate (sarStep d.msb) n (d, c)).1 = d.sshiftRight n := by
  refine view_iterate BitVec.sshiftRight_zero (fun n p hp => ?_) n
  rw [sarStep, hp, ← BitVec.msb_sshiftRight (n := n), stepRight_msb, BitVec.sshiftRight_add]

/-! ## The last bit out -/

/-- `rol` leaves in the carry the bit it brought in. -/
theorem iterate_rolStep_succ_snd (hw : 0 < w) :
    (iterate rolStep (n + 1) (d, c)).2 = (d.rotateLeft (n + 1)).getLsbD 0 := by
  rw [← iterate_rolStep_fst d c, iterate_succ_apply, rolStep, getLsbD_stepLeft _ _ hw, if_pos rfl]

theorem iterate_rorStep_succ_snd (hw : 0 < w) :
    (iterate rorStep (n + 1) (d, c)).2 = (d.rotateRight (n + 1)).msb := by
  rw [← iterate_rorStep_fst d c, iterate_succ_apply, rorStep, BitVec.msb_eq_getLsbD_last, getLsbD_stepRight _ _ (by omega),
    if_pos (by omega)]

theorem iterate_shlStep_succ_snd (hw : 0 < w) :
    (iterate shlStep (n + 1) (d, c)).2 = (decide (n + 1 ≤ w) && d.getLsbD (w - (n + 1))) := by
  rw [iterate_succ_apply, shlStep, iterate_shlStep_fst, BitVec.msb_eq_getLsbD_last, BitVec.getLsbD_shiftLeft]
  by_cases h : n + 1 ≤ w
  · simp only [h, show w - 1 < w by omega, show ¬ w - 1 < n by omega, decide_true, decide_false, Bool.not_false, Bool.true_and]
    congr 1
    omega
  · simp only [h, show w - 1 < n by omega, decide_true, decide_false, Bool.not_true, Bool.false_and, Bool.and_false]

theorem iterate_shrStep_succ_snd : (iterate shrStep (n + 1) (d, c)).2 = d.getLsbD n := by
  rw [iterate_succ_apply, shrStep, iterate_shrStep_fst, BitVec.getLsbD_ushiftRight, Nat.add_zero]

theorem iterate_sarStep_succ_snd (hw : 0 < w) :
    (iterate (sarStep d.msb) (n + 1) (d, c)).2 = if n + 1 ≤ w then d.getLsbD n else d.msb := by
  rw [iterate_succ_apply, sarStep, iterate_sarStep_fst, BitVec.getLsbD_sshiftRight, Nat.add_zero,
    decide_eq_false (by omega), Bool.not_false, Bool.true_and]
  rfl

/-! ## The laws of rotation (R289) -/

theorem iterate_rorStep_iterate_rolStep (c' : Bool) : (iterate rorStep n ((iterate rolStep n (d, c)).1, c')).1 = d := by
  rw [iterate_rorStep_fst, iterate_rolStep_fst, rotateRight_rotateLeft]

theorem iterate_rcrStep_iterate_rclStep (hw : 0 < w) : iterate rcrStep n (iterate rclStep n p) = p :=
  carryRing_injective (by rw [carryRing_iterate_rcrStep _ n hw, carryRing_iterate_rclStep _ n hw, rotateRight_rotateLeft])

theorem ushiftRight_shiftLeft_of_top_zero (htop : ∀ k, w - n ≤ k → d.getLsbD k = false) : (d <<< n) >>> n = d := by
  refine BitVec.eq_of_getLsbD_eq fun i hi => ?_
  rw [BitVec.getLsbD_ushiftRight, BitVec.getLsbD_shiftLeft, Nat.add_sub_cancel_left]
  by_cases h : n + i < w
  · simp [h]
  · rw [htop i (by omega), Bool.and_false]

end

/-- Settles O46. -/
theorem shiftClosedForms : Obligations.ShiftClosedForms := by
  intro w d c c' n
  have hw := Width.bits_pos w
  refine ⟨iterate_rolStep_fst d c n, iterate_rorStep_fst d c n, carryRing_iterate_rclStep _ n hw, carryRing_iterate_rcrStep _ n hw,
    iterate_shlStep_fst d c n, iterate_shrStep_fst d c n, iterate_sarStep_fst d c n, fun hn => ?carry,
    iterate_rorStep_iterate_rolStep d c n c', iterate_rcrStep_iterate_rclStep _ n hw, fun _ htop => ?shrShl⟩
  case carry =>
    obtain ⟨m, rfl⟩ := Nat.exists_eq_succ_of_ne_zero hn.ne'
    exact ⟨iterate_rolStep_succ_snd d c m hw, iterate_rorStep_succ_snd d c m hw, iterate_shlStep_succ_snd d c m hw,
      iterate_shrStep_succ_snd d c m, iterate_sarStep_succ_snd d c m hw⟩
  case shrShl => rw [iterate_shrStep_fst, iterate_shlStep_fst, ushiftRight_shiftLeft_of_top_zero d n htop]

/-! ## OF for one step, in plain arithmetic -/

section
variable {w : Nat}

theorem getLsbD_toNat (r : BitVec w) (i : Nat) : (r.getLsbD i).toNat = r.toNat / 2 ^ i % 2 := Nat.toNat_testBit r.toNat i

theorem xor_eq_decide_toNat_ne (a b : Bool) : (a ^^ b) = decide (a.toNat ≠ b.toNat) := by
  cases a <;> cases b <;> rfl

theorem eq_decide_toNat_eq_one (b : Bool) : b = decide (b.toNat = 1) := by cases b <;> rfl

theorem carry_xor_msb_eq_decide (hw : 0 < w) (r : BitVec w) (c : Bool) :
    (c ^^ r.msb) = decide (c.toNat ≠ r.toNat / 2 ^ (w - 1)) := by
  rw [xor_eq_decide_toNat_ne, msb_toNat r hw]

theorem msb_xor_carry_eq_decide (hw : 0 < w) (r : BitVec w) (c : Bool) :
    (r.msb ^^ c) = decide (r.toNat / 2 ^ (w - 1) ≠ c.toNat) := by
  rw [xor_eq_decide_toNat_ne, msb_toNat r hw]

theorem topTwoXor_eq_decide (hw : 0 < w) (r : BitVec w) :
    topTwoXor r = decide (r.toNat / 2 ^ (w - 1) ≠ r.toNat / 2 ^ (w - 2) % 2) := by
  rw [topTwoXor, xor_eq_decide_toNat_ne, msb_toNat r hw, getLsbD_toNat]

theorem msb_eq_decide_div (hw : 0 < w) (r : BitVec w) : r.msb = decide (r.toNat / 2 ^ (w - 1) = 1) := by
  rw [← msb_toNat r hw, ← eq_decide_toNat_eq_one]

end

/-! ## The results of the instructions (R281 to R287) -/

/-- What `res` ends in where it completes from `s`: its destination and CF are the value and the carry of the loop's end `q`, no flag
has changed after no step, and OF is `ovf` after one. -/
def CompletesLoop (w : Width) (dst : Dst) (s : State) (n : Nat) (q : Nat × Nat) (ovf : Bool) (res : Result) : Prop :=
  ∃ (t : State) (r : BitVec w.bits), res = .next t ∧ Continues s t ∧ DstHolds w dst s t r ∧ r.toNat = q.1 ∧
    t.flags.cf = decide (q.2 = 1) ∧ (n = 0 → t.flags = s.flags) ∧ (n = 1 → t.flags.ovf = ovf)

section
variable {s : State} {w : Width} {count : Count} {dst : Dst} {d : BitVec w.bits}

/-- A one-operand instruction that writes the value of its loop's end `p` over a state with the flags of that end. -/
theorem unaryOp_completesLoop {f : BitVec w.bits → BitVec w.bits × State} {n : Nat} {p : BitVec w.bits × Bool} {ovf : Bool}
    (hready : s.Ready) (hwf : wfUnary s.cfg w dst = true) (hd : s.dstVal w dst = .ok d) (hvalue : (f d).1 = p.1)
    (hkeeps : Keeps s (f d).2) (hpc : (f d).2.pc = s.pc) (hcf : (f d).2.flags.cf = p.2)
    (hzero : n = 0 → (f d).2.flags = s.flags) (hone : n = 1 → (f d).2.flags.ovf = ovf) :
    CompletesLoop w dst s n (pairNat p) ovf (unaryOp w dst f s) := by
  obtain ⟨t, ht, hcont, hold, hflags⟩ := unaryOp_completes hready (wfUnary_iff.mp hwf).1 hd hkeeps hpc
  rw [← hflags] at hcf hzero hone
  exact ⟨t, (f d).1, ht, hcont, hold, congrArg BitVec.toNat hvalue, hcf.trans (eq_decide_toNat_eq_one p.2), hzero, hone⟩

/-- A rotate whose step is `body` and whose OF formula is `ovf` on naturals. -/
theorem rotateOp_completesLoop {step : BitVec w.bits × Bool → BitVec w.bits × Bool} {formula : BitVec w.bits → Bool → Bool}
    {body : Nat × Nat → Nat × Nat} {ovf : Nat → Nat → Bool} (hstep : ∀ p, pairNat (step p) = body (pairNat p))
    (hovf : ∀ r c, formula r c = ovf r.toNat c.toNat) (hready : s.Ready) (hwf : wfUnary s.cfg w dst = true)
    (hd : s.dstVal w dst = .ok d) :
    let q := repeatTimes body (rotateTimes s count) (loopStart d s)
    CompletesLoop w dst s (rotateTimes s count) q (ovf q.1 q.2) (rotateOp w count dst step formula s) := by
  intro q
  have hq : pairNat (iterate step (rotateTimes s count) (d, s.flags.cf)) = q := pairNat_iterate hstep _ _
  rw [← hq, rotateOp, rotateCount_eq]
  refine unaryOp_completesLoop hready hwf hd rfl (Keeps.rotateState _ _ _ _) rfl rfl (fun h0 => ?_) fun h1 => ?_
  · rw [h0]
    rfl
  · rw [h1]
    exact hovf _ _

/-- CF after a shift by no step is the carry its loop begins with. -/
theorem shiftFlags_cf {n : Nat} {cf : Bool} (formula : Bool) (h : n = 0 → cf = s.flags.cf) :
    (shiftFlags s n cf formula).cf = cf := by
  unfold shiftFlags
  split
  · exact (h ‹_›).symm
  · rfl

/-- A shift whose step is `body` and whose OF formula is `ovf` on naturals, given the operand's sign bit and value. -/
theorem shiftOp_completesLoop {step : BitVec w.bits → BitVec w.bits × Bool → BitVec w.bits × Bool}
    {formula : BitVec w.bits → BitVec w.bits → Bool → Bool} {body : Nat × Nat → Nat × Nat} {ovf : Nat → Nat → Bool}
    (hstep : ∀ p, pairNat (step d p) = body (pairNat p)) (hovf : ∀ r c, formula d r c = ovf r.toNat c.toNat)
    (hready : s.Ready) (hwf : wfUnary s.cfg w dst = true) (hd : s.dstVal w dst = .ok d) :
    let q := repeatTimes body (shiftTimes s count) (loopStart d s)
    CompletesLoop w dst s (shiftTimes s count) q (ovf q.1 q.2) (shiftOp w count dst step formula s) := by
  intro q
  have hq : pairNat (iterate (step d) (shiftTimes s count) (d, s.flags.cf)) = q := pairNat_iterate hstep _ _
  rw [← hq, shiftOp, shiftCount_eq]
  refine unaryOp_completesLoop hready hwf hd rfl (Keeps.shiftState _ _ _ _) rfl (shiftFlags_cf _ fun h0 => ?_)
    (fun h0 => ?_) fun h1 => ?_
  · rw [h0]
    rfl
  · rw [h0]
    rfl
  · rw [h1]
    exact hovf _ _

end

/-- Every rotate is `rotateOp` with a step and an OF formula that are its loop body and its rule on naturals. -/
theorem rotateSpellings_rotateOp (w : Width) : ∀ p ∈ rotateSpellings, ∃ step formula,
    (∀ count dst s, exec (p.1 w count dst) s = rotateOp w count dst step formula s) ∧
    (∀ count dst cfg, (p.1 w count dst).wellFormed cfg = wfUnary cfg w dst) ∧
    (∀ x, pairNat (step x) = p.2.1 w.bits (pairNat x)) ∧ ∀ r c, formula r c = p.2.2 w.bits r.toNat c.toNat := by
  have hw := Width.bits_pos w
  simp only [rotateSpellings, List.forall_mem_cons, List.not_mem_nil, IsEmpty.forall_iff, implies_true, and_true]
  refine ⟨?rol, ?ror, ?rcl, ?rcr⟩
  case rol =>
    exact ⟨rolStep, fun r c => c ^^ r.msb, fun _ _ _ => rfl, fun _ _ _ => rfl, pairNat_rolStep hw, carry_xor_msb_eq_decide hw⟩
  case ror =>
    exact ⟨rorStep, fun r _ => topTwoXor r, fun _ _ _ => rfl, fun _ _ _ => rfl, pairNat_rorStep hw,
      fun r _ => topTwoXor_eq_decide hw r⟩
  case rcl =>
    exact ⟨rclStep, fun r c => c ^^ r.msb, fun _ _ _ => rfl, fun _ _ _ => rfl, pairNat_rclStep hw, carry_xor_msb_eq_decide hw⟩
  case rcr =>
    exact ⟨rcrStep, fun r _ => topTwoXor r, fun _ _ _ => rfl, fun _ _ _ => rfl, pairNat_rcrStep hw,
      fun r _ => topTwoXor_eq_decide hw r⟩

/-- Settles O44. -/
theorem rotateResult : Obligations.RotateResult := by
  intro p hp s w count dst d hready hwf hd
  obtain ⟨step, formula, hexec, hwellFormed, hstep, hovf⟩ := rotateSpellings_rotateOp w p hp
  rw [hexec]
  exact rotateOp_completesLoop hstep hovf hready ((hwellFormed count dst s.cfg).symm.trans hwf) hd

/-- Every shift is `shiftOp` with a step and an OF formula that are its loop body and its rule on naturals. -/
theorem shiftSpellings_shiftOp (w : Width) : ∀ p ∈ shiftSpellings, ∃ step formula,
    (∀ count dst s, exec (p.1 w count dst) s = shiftOp w count dst step formula s) ∧
    (∀ count dst cfg, (p.1 w count dst).wellFormed cfg = wfUnary cfg w dst) ∧
    (∀ d x, pairNat (step d x) = p.2.1 (d.toNat / 2 ^ (w.bits - 1)) w.bits (pairNat x)) ∧
    ∀ d r c, formula d r c = p.2.2 w.bits d.toNat r.toNat c.toNat := by
  have hw := Width.bits_pos w
  simp only [shiftSpellings, List.forall_mem_cons, List.not_mem_nil, IsEmpty.forall_iff, implies_true, and_true]
  refine ⟨?shl, ?sal, ?shr, ?sar⟩
  case shl | sal =>
    exact ⟨fun _ => shlStep, fun _ r c => r.msb ^^ c, fun _ _ _ => rfl, fun _ _ _ => rfl, fun _ => pairNat_shlStep hw,
      fun _ => msb_xor_carry_eq_decide hw⟩
  case shr =>
    exact ⟨fun _ => shrStep, fun d _ _ => d.msb, fun _ _ _ => rfl, fun _ _ _ => rfl, fun _ => pairNat_shrStep hw,
      fun d _ _ => msb_eq_decide_div hw d⟩
  case sar =>
    exact ⟨fun d => sarStep d.msb, fun _ _ _ => false, fun _ _ _ => rfl, fun _ _ _ => rfl,
      fun d x => msb_toNat d hw ▸ pairNat_sarStep hw d.msb x, fun _ _ _ => rfl⟩

/-- Settles O45. -/
theorem shiftResult : Obligations.ShiftResult := by
  intro p hp s w count dst d hready hwf hd
  obtain ⟨step, formula, hexec, hwellFormed, hstep, hovf⟩ := shiftSpellings_shiftOp w p hp
  rw [hexec]
  exact shiftOp_completesLoop (hstep d) (hovf d) hready ((hwellFormed count dst s.cfg).symm.trans hwf) hd

end Sys2Proof.Machine
end

section
/-! The conditions on the stored flags (45_conditional.md rules R310 to R325), and references to a label that is not in the table
(R327, R368, R369, R403). -/

namespace Sys2Proof.Machine

/-! ## The conditions (R310 to R325) -/

/-- Settles O23: `NO`, `AE`, `NE` and `A` are the complements of `O`, `B`, `E` and `BE`. -/
theorem carryZeroConditions : Obligations.CarryZeroConditions := by
  intro f
  refine ⟨.rfl, ?no, .rfl, ?ae, .rfl, ?ne, Bool.or_eq_true_iff, ?a⟩
  case no | ae | ne => exact (Bool.not_eq_true' _).to_iff
  case a => rw [condHolds, Bool.and_eq_true, Bool.not_eq_true', Bool.not_eq_true']

/-- Settles O24: the signed conditions compare SF with OF. -/
theorem signParityConditions : Obligations.SignParityConditions := by
  intro f
  refine ⟨.rfl, ?ns, .rfl, ?np, bne_iff_ne, beq_iff_eq, ?le, ?g⟩
  case ns | np => exact (Bool.not_eq_true' _).to_iff
  case le => rw [condHolds, Bool.or_eq_true, bne_iff_ne]
  case g => rw [condHolds, Bool.and_eq_true, Bool.not_eq_true', beq_iff_eq]

/-! ## Missing labels (R327, R368, R369, R403) -/

section
variable {s : State} {target : Text}

theorem withTarget_missing_halt (h : assoc target s.labels = none) (hp : s.cfg.labelMissPolicy = .halt)
    (found : Nat → State) : withTarget target s found = .next (s.raise (.invalidLabel target)) := by
  rw [withTarget, h, hp, complete_error]

theorem withTarget_missing_skip (h : assoc target s.labels = none) (hp : s.cfg.labelMissPolicy = .skip)
    (he : s.exit = false) (found : Nat → State) : withTarget target s found = .next s.advance := by
  rw [withTarget, h, hp, complete_ok, retire_of_running (s := s.advance) he]

theorem execCall_missing_halt (h : assoc target s.labels = none) (hp : s.cfg.labelMissPolicy = .halt) :
    execCall target s = .next (s.raise (.invalidLabel target)) := by
  rw [execCall, h, hp, complete_error]

/-- Under `skip` a call to a missing label still pushes its return address (R369). -/
theorem execCall_missing_skip (h : assoc target s.labels = none) (hp : s.cfg.labelMissPolicy = .skip) (hready : s.Ready)
    (hb : s.inBounds (pushSlot s) 4) :
    ∃ t, execCall target s = .next t ∧ Continues s t ∧ t.cell .esp = s.cell .esp - 4 ∧
      WordAt (pushSlot s) (returnAddress s) t := by
  obtain ⟨u, hu, hk, hpc, -, hesp, hword⟩ := push32_of_inBounds hready.1 (returnAddress s) hb
  refine ⟨u.advance, ?_, hk.continues hpc, hesp, hword⟩
  rw [execCall, h, hp, hu, ok_map, complete_ok, retire_of_running (s := u.advance) (hk.exit.trans hready.2)]

/-- Every spelling of `j<cc>`, and `jmp`, is a reference to its label. -/
theorem exec_jumps_withTarget (target : Text) (s : State) :
    ∀ mk ∈ jumpSpellings.map Prod.snd ++ [.jmp], ∃ found, exec (mk target) s = withTarget target s found := by
  refine List.forall_mem_append.mpr ⟨?_, List.forall_mem_singleton.mpr ⟨s.withPc, rfl⟩⟩
  exact List.forall_mem_map.mpr fun p hp => ⟨_, exec_jumpSpellings p hp target s⟩

end

/-- Settles O48: the jumps are label references, and a call is one that pushes first. -/
theorem missingLabel : Obligations.MissingLabel := by
  intro s target hready h
  refine ⟨fun hp => ?halt, fun hp => ⟨fun mk hmk => ?skip, execCall_missing_skip h hp hready⟩⟩
  case halt =>
    rw [List.append_cons]
    refine List.forall_mem_append.mpr ⟨fun mk hmk => ?jumps, List.forall_mem_singleton.mpr (execCall_missing_halt h hp)⟩
    obtain ⟨found, hexec⟩ := exec_jumps_withTarget target s mk hmk
    exact hexec.trans (withTarget_missing_halt h hp found)
  case skip =>
    obtain ⟨found, hexec⟩ := exec_jumps_withTarget target s mk hmk
    exact hexec.trans (withTarget_missing_skip h hp hready.2 found)

end Sys2Proof.Machine
end

section
/-! The string instructions (46_string.md): the pointer step after a body that leaves its pointers alone, the accumulator, and the
result of each operation at every width. -/

namespace Sys2Proof.Machine

/-! ## The pointer step (R340) -/

section
variable {s u : State} {w : Width}

/-- An instruction whose body leaves a pointer and DF alone, and then steps the pointer, moves it by the delta of the starting
state. -/
theorem onePointer_completes (c : Cell) (he : s.exit = false) (hk : Keeps s u) (hpc : u.pc = s.pc) (hc : u.cell c = s.cell c)
    (hdf : u.flags.df = s.flags.df) :
    let t := (advancePtr c w u).advance
    plainOp (.ok (advancePtr c w u)) s = .next t ∧ Continues s t ∧ PointerMoved c w s t := by
  obtain ⟨hexec, hcont⟩ := plainOp_completes he (hk.advancePtr c w) hpc
  exact ⟨hexec, hcont, pointerMoved_of_advancePtr (cell_advancePtr_congr hc hk.cfg hdf)⟩

/-- An instruction whose body ends in the steps of `esi` and `edi`: neither step disturbs the other's pointer. -/
theorem twoPointers_completes (he : s.exit = false) (hk : Keeps s u) (hpc : u.pc = s.pc) (hcells : u.cells = s.cells)
    (hdf : u.flags.df = s.flags.df) :
    let t := (advancePtr .edi w (advancePtr .esi w u)).advance
    plainOp (.ok (advancePtr .edi w (advancePtr .esi w u))) s = .next t ∧ Continues s t ∧
      PointerMoved .esi w s t ∧ PointerMoved .edi w s t := by
  have hcell : ∀ c, u.cell c = s.cell c := fun c => congrArg (Cells.get · c) hcells
  have hedi : (advancePtr .esi w u).cell .edi = s.cell .edi := (cell_advancePtr_of_ne (by decide)).trans (hcell .edi)
  obtain ⟨hexec, hcont, hmoved⟩ := onePointer_completes .edi he (hk.advancePtr .esi w) hpc hedi hdf
  refine ⟨hexec, hcont, pointerMoved_of_advancePtr ?_, hmoved⟩
  exact (cell_advancePtr_of_ne (by decide)).trans (cell_advancePtr_congr (hcell .esi) hk.cfg hdf)

/-! ## The accumulator (R37) -/

theorem accReg_width (w : Width) : (accReg w).width = w := by cases w <;> rfl

theorem regCell_accReg (w : Width) : regCell (accReg w) = .eax := by cases w <;> rfl

theorem accValue_setAcc (v : BitVec w.bits) : accValue w (setAcc w v s) = v := by
  rw [accValue, setAcc, readReg_writeReg, BitVec.setWidth_setWidth_of_le v (by rw [accReg_width]), BitVec.setWidth_eq]

theorem cell_setAcc_of_ne {c : Cell} (h : c ≠ .eax) (v : BitVec w.bits) : (setAcc w v s).cell c = s.cell c := by
  rw [setAcc, State.cell_writeReg, regCell_accReg, if_neg h]

/-! ## The operations -/

/-- `cmps` sets the flags of `[esi] - [edi]` (R341). -/
theorem cmpsOp_completes {a b : BitVec w.bits} (he : s.exit = false) (ha : s.memRead (addrOf (s.cell .esi)) w = .ok a)
    (hb : s.memRead (addrOf (s.cell .edi)) w = .ok b) :
    ∃ t, cmpsOp w s = .next t ∧ Continues s t ∧ DifferenceFlags a b t.flags ∧
      ResultFlags (BitVec.ofNat w.bits (differenceNat a b)) t.flags ∧ PointerMoved .esi w s t ∧ PointerMoved .edi w s t := by
  obtain ⟨hexec, hcont, hmoved⟩ :=
    twoPointers_completes (w := w) he ((Keeps.refl s).withFlags (s.flags.ofAlu (subCore a b))) rfl rfl rfl
  rw [ofNat_differenceNat]
  refine ⟨_, ?_, hcont, differenceFlags_ofAlu s.flags a b, resultFlags_ofAlu s.flags (subCore a b), hmoved⟩
  rw [cmpsOp, element, ha, ok_bind, element, hb]
  exact hexec

/-- `scas` sets the flags of `acc - [edi]` (R343). -/
theorem scasOp_completes {b : BitVec w.bits} (he : s.exit = false) (hb : s.memRead (addrOf (s.cell .edi)) w = .ok b) :
    ∃ t, scasOp w s = .next t ∧ Continues s t ∧ DifferenceFlags ((s.cell .eax).setWidth w.bits) b t.flags ∧
      ResultFlags (BitVec.ofNat w.bits (differenceNat ((s.cell .eax).setWidth w.bits) b)) t.flags ∧
      PointerMoved .edi w s t := by
  obtain ⟨hexec, hcont, hmoved⟩ := onePointer_completes (w := w) .edi he
    ((Keeps.refl s).withFlags (s.flags.ofAlu (subCore (accValue w s) b))) rfl rfl rfl
  rw [ofNat_differenceNat, ← accValue_eq]
  refine ⟨_, ?_, hcont, differenceFlags_ofAlu s.flags _ b, resultFlags_ofAlu s.flags (subCore _ b), hmoved⟩
  rw [scasOp, element, hb]
  exact hexec

/-- `movs` stores the element at `esi` (R342). -/
theorem movsOp_completes {v : BitVec w.bits} (hready : s.Ready) (hv : s.memRead (addrOf (s.cell .esi)) w = .ok v)
    (hb : s.inBounds (addrOf (s.cell .edi)) w.bytes) :
    ∃ t, movsOp w s = .next t ∧ Continues s t ∧ t.flags = s.flags ∧ t.memRead (addrOf (s.cell .edi)) w = .ok v ∧
      PointerMoved .esi w s t ∧ PointerMoved .edi w s t := by
  have hwrite := State.memWrite_of_inBounds hb v
  obtain ⟨hexec, hcont, hmoved⟩ :=
    twoPointers_completes (w := w) hready.2 ((Keeps.refl s).memWrite hwrite) rfl rfl rfl
  refine ⟨_, ?_, hcont, rfl, (memRead_congr rfl rfl).trans (memRead_writeBytes hready.1 hb v), hmoved⟩
  rw [movsOp, element, hv, ok_bind, hwrite]
  exact hexec

/-- `stos` stores the accumulator (R344). -/
theorem stosOp_completes (hready : s.Ready) (hb : s.inBounds (addrOf (s.cell .edi)) w.bytes) :
    ∃ t, stosOp w s = .next t ∧ Continues s t ∧ t.flags = s.flags ∧
      t.memRead (addrOf (s.cell .edi)) w = .ok ((s.cell .eax).setWidth w.bits) ∧ PointerMoved .edi w s t := by
  have hwrite := State.memWrite_of_inBounds hb (accValue w s)
  obtain ⟨hexec, hcont, hmoved⟩ :=
    onePointer_completes (w := w) .edi hready.2 ((Keeps.refl s).memWrite hwrite) rfl rfl rfl
  rw [← accValue_eq]
  refine ⟨_, ?_, hcont, rfl, (memRead_congr rfl rfl).trans (memRead_writeBytes hready.1 hb _), hmoved⟩
  rw [stosOp, hwrite]
  exact hexec

/-- `lods` loads the accumulator, which the pointer step leaves alone (R345). -/
theorem lodsOp_completes {v : BitVec w.bits} (he : s.exit = false) (hv : s.memRead (addrOf (s.cell .esi)) w = .ok v) :
    ∃ t, lodsOp w s = .next t ∧ Continues s t ∧ t.flags = s.flags ∧ (t.cell .eax).setWidth w.bits = v ∧
      PointerMoved .esi w s t := by
  obtain ⟨hexec, hcont, hmoved⟩ := onePointer_completes (w := w) .esi he ((Keeps.refl s).setAcc w v) rfl
    (cell_setAcc_of_ne (by decide) v) rfl
  have heax : (advancePtr .esi w (setAcc w v s)).cell .eax = (setAcc w v s).cell .eax := cell_advancePtr_of_ne (by decide)
  refine ⟨_, ?_, hcont, rfl, ?_, hmoved⟩
  · rw [lodsOp, element, hv]
    exact hexec
  · rw [State.cell_advance, heax, ← accValue_eq, accValue_setAcc]

end

/-! ## The spellings -/

/-- Settles O51: every spelling runs its operation at its width. -/
theorem stringCompareResult : Obligations.StringCompareResult := by
  refine ⟨fun p hp s a b he ha hb => ?cmps, fun p hp s b he hb => ?scas⟩
  case cmps =>
    obtain ⟨hcmps, -⟩ := exec_stringSpellings s
    rw [hcmps p hp]
    exact cmpsOp_completes he ha hb
  case scas =>
    obtain ⟨-, -, hscas, -⟩ := exec_stringSpellings s
    rw [hscas p hp]
    exact scasOp_completes he hb

/-- Settles O52: every spelling runs its operation at its width. -/
theorem stringMoveResult : Obligations.StringMoveResult := by
  refine ⟨fun p hp s v hready hv hb => ?movs, fun p hp s hready hb => ?stos, fun p hp s v he hv => ?lods⟩
  case movs =>
    obtain ⟨-, hmovs, -⟩ := exec_stringSpellings s
    rw [hmovs p hp]
    exact movsOp_completes hready hv hb
  case stos =>
    obtain ⟨-, -, -, hstos, -⟩ := exec_stringSpellings s
    rw [hstos p hp]
    exact stosOp_completes hready hb
  case lods =>
    obtain ⟨-, -, -, -, hlods⟩ := exec_stringSpellings s
    rw [hlods p hp]
    exact lodsOp_completes he hv

end Sys2Proof.Machine
end

section
/-! The stack, the transfer of the flag word, call and return, and the stack frame (47_data_stack_control.md rules R361 to R367 and
R369 to R372): what each body does once its slot can be written or its word read, then the results. -/

namespace Sys2Proof.Machine

section
variable {s t u : State}

/-! ## push and pop (R361 to R363) -/

/-- A `choose` gives a value its parameter allows. -/
theorem espChoice_choose (s : State) (p : AliasPolicy) (snapshot inplace : Word) :
    EspChoice p snapshot inplace (s.choose p snapshot inplace) := by
  cases p with
  | snapshot | inplace => rfl
  | either => exact (ite_eq_or_eq (s.draw 0 = true) inplace snapshot).symm

theorem pushValue_completes (hm : Memory.wf s.mem = true) (hb : s.inBounds (pushSlot s) 4) (src : Src) (x : Word) :
    ∃ u v, pushValue src s x = .ok u ∧ Keeps s u ∧ u.pc = s.pc ∧ u.flags = s.flags ∧ u.cell .esp = s.cell .esp - 4 ∧
      WordAt (pushSlot s) v u ∧ (src ≠ .reg (.r32 .esp) → v = x) ∧
      (src = .reg (.r32 .esp) → EspChoice s.cfg.pushPopEsp x (x - 4) v) := by
  unfold pushValue
  split
  next hesp =>
    have hchoice := espChoice_choose s s.cfg.pushPopEsp x (x - 4)
    generalize s.choose s.cfg.pushPopEsp x (x - 4) = v at hchoice ⊢
    obtain ⟨u, hu, hk, hpc, hflags, hcell, hword⟩ := push32_of_inBounds hm v hb
    refine ⟨u.chose s.cfg.pushPopEsp, v, ?_, hk.chose _, ?_, ?_, ?_, ?_, (absurd hesp ·), fun _ => hchoice⟩
    · rw [hu, ok_map]
    · rw [State.chose_pc, hpc]
    · rw [State.chose_flags, hflags]
    · rw [State.cell_chose, hcell]
    · exact (memRead_congr (State.chose_mem ..) (State.chose_cfg ..)).trans hword
  next hesp =>
    obtain ⟨u, hu, hk, hpc, hflags, hcell, hword⟩ := push32_of_inBounds hm x hb
    exact ⟨u, x, hu, hk, hpc, hflags, hcell, hword, fun _ => rfl, (absurd · hesp)⟩

/-- Writing a 32-bit destination other than a cell's whole view leaves the cell alone. -/
theorem cell_writeDst_of_ne {dst : Dst} {c : Cell} {v : Word} (hf : dst.fits .w32 = true) (hne : dst ≠ .reg (.r32 c))
    (hu : s.writeDst .w32 dst v t = .ok u) : u.cell c = t.cell c := by
  cases dst with
  | mem m =>
    obtain ⟨-, rfl⟩ := State.memWrite_ok hu
    rfl
  | reg r =>
    cases hu
    cases r with
    | r32 d => exact (State.cell_writeReg ..).trans (if_neg fun h : c = d => hne (h ▸ rfl))
    | r16 | lo8 | hi8 => cases hf

theorem popInto_completes {dst : Dst} {v : Word} (hm : Memory.wf s.mem = true) (hf : dst.fits .w32 = true)
    (hr : DstReachable .w32 dst s) :
    ∃ u, popInto dst s (v, s.setCell .esp (s.cell .esp + 4)) = .ok u ∧ Keeps s u ∧ u.pc = s.pc ∧ u.flags = s.flags ∧
      (dst ≠ .reg (.r32 .esp) → DstHolds .w32 dst s u v ∧ u.cell .esp = s.cell .esp + 4) ∧
      (dst = .reg (.r32 .esp) → EspChoice s.cfg.pushPopEsp v (v + 4) (u.cell .esp)) := by
  unfold popInto
  split
  next hesp =>
    refine ⟨_, rfl, ((Keeps.refl s).setCell _ _).chose _, by simp, by simp, (absurd hesp ·), fun _ => ?_⟩
    rw [State.cell_chose, State.cell_setCell, if_pos rfl]
    exact espChoice_choose ..
  next hesp =>
    have hpopped := (Keeps.refl s).setCell .esp (s.cell .esp + 4)
    obtain ⟨u, hu, hold, hflags, hpc, hk⟩ := writeDst_completes v hpopped.cfg (hpopped.memCanonical hm) hf hr
    refine ⟨u, hu, hpopped.trans hk, hpc, hflags, fun _ => ⟨hold, ?_⟩, (absurd · hesp)⟩
    rw [cell_writeDst_of_ne hf hesp hu, State.cell_setCell, if_pos rfl]

/-- Settles O54: the push of a source's value, and the write of a popped word. -/
theorem pushPopResult : Obligations.PushPopResult := by
  intro s hready
  refine ⟨fun src x hx hb => ?push, fun dst v hwf hv hr => ?pop⟩
  case push =>
    obtain ⟨u, v, hu, hk, hpc, hflags, hesp, hword, hvalue⟩ := pushValue_completes hready.1 hb src x
    obtain ⟨hexec, hcont⟩ := sourceOp_completes hready.2 hx hu hk hpc
    exact ⟨u.advance, v, hexec, hcont, hflags, hesp, hword, hvalue⟩
  case pop =>
    obtain ⟨hfits, -⟩ := wfUnary_iff.mp hwf
    obtain ⟨u, hu, hk, hpc, hflags, hother, hesp⟩ := popInto_completes (v := v) hready.1 hfits hr
    obtain ⟨hexec, hcont⟩ := plainOp_completes hready.2 hk hpc
    refine ⟨u.advance, ?_, hcont, hflags, fun hne => ?_, hesp⟩
    · rw [exec, execPop, pop32_of_wordAt hv, ok_bind, hu, hexec]
    · obtain ⟨hold, hcell⟩ := hother hne
      exact ⟨hold.congr rfl rfl rfl, hcell⟩

/-! ## The flag word (R364 to R367) -/

theorem exec_pushfSpellings : ∀ i ∈ pushfSpellings, exec i s = pushFlags s := by
  simp only [pushfSpellings, List.forall_mem_cons, List.not_mem_nil, IsEmpty.forall_iff, implies_true, and_true]
  and_intros <;> rfl

theorem exec_popfSpellings : ∀ i ∈ popfSpellings, exec i s = popFlags s := by
  simp only [popfSpellings, List.forall_mem_cons, List.not_mem_nil, IsEmpty.forall_iff, implies_true, and_true]
  and_intros <;> rfl

/-- The five flags of the low byte come from the byte, the others are kept. -/
theorem get_unpackLow_eq_ite (f : Flags) (b : Byte) (n : FlagName) :
    (f.unpackLow b).get n = if n.pos < 8 then b.getLsbD n.pos else f.get n := by
  cases n <;> rfl

theorem execLahf_completes (he : s.exit = false) :
    ∃ t, execLahf s = .next t ∧ Continues s t ∧ t.flags = s.flags ∧
      ∀ k < 8, (t.cell .eax).getLsbD (8 + k) = packedBit s.flags k := by
  obtain ⟨hexec, hcont⟩ :=
    plainOp_completes he ((Keeps.refl s).writeReg (.hi8 .a) (s.flags.pack.extractLsb' 0 8)) rfl
  refine ⟨_, hexec, hcont, rfl, fun k hk => ?_⟩
  have hbit := readReg_getLsbD (s.writeReg (.hi8 .a) (s.flags.pack.extractLsb' 0 8)) (.hi8 .a) (i := k) hk
  rw [readReg_writeReg] at hbit
  rw [State.cell_advance, ← pack_getLsbD s.flags (by omega : k < 32)]
  refine hbit.symm.trans ?_
  rw [BitVec.getLsbD_extractLsb', decide_eq_true hk, Bool.true_and, Nat.zero_add]

theorem execSahf_completes (he : s.exit = false) :
    ∃ t, execSahf s = .next t ∧ Continues s t ∧
      ∀ n, t.flags.get n = if n.pos < 8 then (s.cell .eax).getLsbD (8 + n.pos) else s.flags.get n := by
  obtain ⟨hexec, hcont⟩ := plainOp_completes he ((Keeps.refl s).withFlags (s.flags.unpackLow (s.readReg (.hi8 .a)))) rfl
  refine ⟨_, hexec, hcont, fun n => (get_unpackLow_eq_ite ..).trans ?_⟩
  split
  next hn => exact readReg_getLsbD s (.hi8 .a) hn
  next => rfl

/-- Settles O55. -/
theorem flagTransfer : Obligations.FlagTransfer := by
  intro s hready
  refine ⟨fun i hi hb => ?pushf, fun i hi v hv => ?popf, execLahf_completes hready.2, execSahf_completes hready.2⟩
  case pushf =>
    obtain ⟨u, hu, hk, hpc, hflags, hesp, hword⟩ := push32_of_inBounds hready.1 s.flags.pack hb
    obtain ⟨hexec, hcont⟩ := plainOp_completes hready.2 hk hpc
    refine ⟨u.advance, s.flags.pack, ?_, hcont, hflags, hesp, hword, fun k => pack_getLsbD s.flags⟩
    rw [exec_pushfSpellings i hi, pushFlags, hu, hexec]
  case popf =>
    obtain ⟨hexec, hcont⟩ := plainOp_completes hready.2
      (((Keeps.refl s).setCell .esp (s.cell .esp + 4)).withFlags (Flags.unpack v)) rfl
    refine ⟨_, ?_, hcont, ?_, unpack_get v⟩
    · rw [exec_popfSpellings i hi, popFlags, pop32_of_wordAt hv, ok_map, hexec]
    · rw [State.cell_advance, State.cell_withFlags, State.cell_setCell, if_pos rfl]

/-! ## call, ret and leave (R369, R370, R372) -/

/-- An instruction whose body ends in a jump completes at the jump's index. -/
theorem jump_completes (he : s.exit = false) (hk : Keeps s u) (k : Nat) :
    complete s (.ok (u.withPc k)) = .next (u.withPc k) ∧ GoesTo k s (u.withPc k) := by
  refine ⟨?_, rfl, hk.exit, hk.status, hk.program, hk.stream, hk.labels, hk.cfg⟩
  rw [complete_ok, retire_of_running (s := u.withPc k) (hk.exit.trans he)]

theorem toNat_retBytes (size : Option (BitVec 16)) : (retBytes size).toNat = (size.getD 0).toNat := by
  cases size with
  | none => rfl
  | some k => exact BitVec.toNat_setWidth_of_le (by decide)

/-- Settles O56: the push and the pop, each followed by a jump. -/
theorem callRetResult : Obligations.CallRetResult := by
  intro s hready
  refine ⟨fun target k hlabel hb => ?call, fun size v hv => ?ret⟩
  case call =>
    obtain ⟨u, hu, hk, -, hflags, hesp, hword⟩ := push32_of_inBounds hready.1 (returnAddress s) hb
    obtain ⟨hexec, hgoes⟩ := jump_completes hready.2 hk k
    refine ⟨u.withPc k, ?_, hgoes, hflags, hesp, hword⟩
    rw [exec, execCall, hlabel, hu]
    exact hexec
  case ret =>
    have hpopped := (Keeps.refl s).setCell .esp (s.cell .esp + 4)
    obtain ⟨hexec, hgoes⟩ := jump_completes hready.2 (hpopped.setCell .esp (s.cell .esp + 4 + retBytes size)) v.toNat
    refine ⟨_, ?_, hgoes, rfl, ?_⟩
    · rw [exec, execRet, pop32_of_wordAt hv, ok_map, State.cell_setCell, if_pos rfl, hexec]
    · rw [State.cell_withPc, State.cell_setCell, if_pos rfl, BitVec.toNat_add, BitVec.toNat_add, toNat_retBytes, Nat.mod_add_mod]
      rfl

/-- Settles O58. -/
theorem leaveResult : Obligations.LeaveResult := by
  intro s v he hv
  obtain ⟨hexec, hcont⟩ := plainOp_completes he (((Keeps.refl s).setCell .esp (s.cell .ebp + 4)).setCell .ebp v) rfl
  refine ⟨_, ?_, hcont, rfl, ?_, ?_⟩
  · rw [exec, execLeave, show s.memRead _ _ = _ from hv, ok_map, hexec]
  · simp
  · simp

end

/-! ## enter (R371) -/

/-- A word apart from every store reads as before. -/
theorem Stores.memRead_apart {ps : List (Int × Nat)} {s t : State} {a : Int} {w : Width} (h : Stores ps s.mem t.mem)
    (hm : Memory.wf s.mem = true) (hc : t.cfg = s.cfg) (hapart : ∀ p ∈ ps, a + w.bytes ≤ p.1 ∨ p.1 + p.2 ≤ a) :
    t.memRead a w = s.memRead a w := by
  have hbounds : t.inBounds a w.bytes ↔ s.inBounds a w.bytes := by rw [State.inBounds, State.inBounds, hc]
  by_cases hb : s.inBounds a w.bytes
  · have hbytes : readBytes t.mem a.toNat w.bytes = readBytes s.mem a.toNat w.bytes := by
      obtain ⟨ha, -⟩ := hb
      refine readBytes_congr fun d hlo hhi => h.readByte_outside hm fun p hp => ?_
      have := hapart p hp
      omega
    rw [State.memRead_of_inBounds hb, State.memRead_of_inBounds (hbounds.mpr hb), hbytes]
  · rw [State.memRead_of_not_inBounds hb, State.memRead_of_not_inBounds (mt hbounds.mp hb)]

/-- The word `enter` pushes into slot `i`: the saved `ebp`, an outer frame pointer whose word is apart from every slot, or the new
frame pointer. Where the display overlaps a slot this says nothing (log 9). -/
inductive EnterWord (s : State) (level : Option Byte) : Nat → Word → Prop
  | saved : EnterWord s level 0 (s.cell .ebp)
  | outer {i : Nat} {v : Word} (hi : 1 ≤ i) (hl : i < enterLevel level) (hv : WordAt (displaySlot s i) v s)
    (hapart : ∀ k ≤ enterLevel level, displaySlot s i + 4 ≤ stackSlot s k ∨ stackSlot s k + 4 ≤ displaySlot s i) :
    EnterWord s level i v
  | frame {i : Nat} (hpos : 0 < i) (hi : i = enterLevel level) : EnterWord s level i (s.cell .esp - 4)

/-- `enter` has made `k` pushes from `s`: it has changed the memory only, and the slots hold their words. -/
structure EnterBuilt (s : State) (level : Option Byte) (k : Nat) (p : State × Word) : Prop where
  pushed : EnterPushed s level k p
  memOnly : p.1 = s.withMem p.1.mem
  words : ∀ i < k, ∀ v, EnterWord s level i v → WordAt (stackSlot s i) v p.1

section
variable {s : State} {level : Option Byte} {k : Nat} {p : State × Word}

theorem enterLevel_lt (level : Option Byte) : enterLevel level < 32 := Nat.mod_lt _ (by decide)

/-- Two slots of one `enter` do not overlap, wherever `esp` wraps. -/
theorem stackSlot_apart {i : Nat} (hi : i < k) (hk : k < 32) :
    stackSlot s i + 4 ≤ stackSlot s k ∨ stackSlot s k + 4 ≤ stackSlot s i := by
  have := (s.cell .esp).isLt
  simp only [stackSlot, addrOf, BitVec.toNat_sub, BitVec.toNat_ofNat]
  omega

/-- One more word down from a pointer that has gone `k` words down. -/
theorem sub_words_sub_four (x : Word) (k : Nat) :
    x - BitVec.ofNat 32 (4 * k) - 4 = x - BitVec.ofNat 32 (4 * (k + 1)) := by
  rw [Nat.mul_succ, BitVec.ofNat_add, BitVec.sub_sub]
  rfl

theorem EnterPushed.nextSlot (h : EnterPushed s level k p) : addrOf (p.2 - 4) = stackSlot s k := by
  obtain ⟨hsp, -⟩ := h
  rw [hsp, stackSlot, sub_words_sub_four]

theorem EnterBuilt.stores (h : EnterBuilt s level k p) : Stores (enterSlots s level) s.mem p.1.mem := h.pushed.2

theorem EnterBuilt.cfg (h : EnterBuilt s level k p) : p.1.cfg = s.cfg := by rw [h.memOnly]; rfl

theorem EnterBuilt.inBounds_iff (h : EnterBuilt s level k p) (a : Int) (n : Nat) : p.1.inBounds a n ↔ s.inBounds a n := by
  rw [State.inBounds, State.inBounds, h.cfg]

/-- A push of the slot's word into the next slot: the slots below stay as they are. -/
theorem EnterBuilt.enterPush (h : EnterBuilt s level k p) (hm : Memory.wf s.mem = true) (hk : k ≤ enterLevel level)
    (hb : s.inBounds (stackSlot s k) 4) {v : Word} (hv : ∀ w, EnterWord s level k w → w = v) :
    ∃ q, enterPush v p = .ok q ∧ EnterBuilt s level (k + 1) q := by
  have hmem : Memory.wf p.1.mem = true := h.stores.wf hm
  have hb' : p.1.inBounds (stackSlot s k) 4 := (h.inBounds_iff _ _).mpr hb
  have hwrite := State.memWrite_of_inBounds (w := .w32) hb' v
  have hstore : Stores [(stackSlot s k, 4)] p.1.mem _ := Stores.none.memWrite (List.mem_singleton.mpr rfl) hwrite
  have hpush : Machine.enterPush v p =
      .ok (p.1.withMem (writeBytes p.1.mem (stackSlot s k).toNat 4 v.toNat), p.2 - 4) := by
    rw [Machine.enterPush, h.pushed.nextSlot, hwrite]
    rfl
  refine ⟨_, hpush, h.pushed.enterPush hk hpush, ?_, fun i hi w hw => ?_⟩
  · rw [h.memOnly]; rfl
  · obtain rfl | hlt := Nat.eq_or_lt_of_le (Nat.le_of_lt_succ hi)
    · rw [hv w hw]
      exact memRead_writeBytes (w := .w32) hmem hb' v
    · refine (hstore.memRead_apart hmem rfl (List.forall_mem_singleton.mpr ?_)).trans (h.words i hlt w hw)
      exact stackSlot_apart hlt (Nat.lt_of_le_of_lt hk (enterLevel_lt level))

section
variable (hm : Memory.wf s.mem = true) (hslots : ∀ j ≤ enterLevel level, s.inBounds (stackSlot s j) 4)
  (hdisplay : ∀ i, 1 ≤ i → i < enterLevel level → s.inBounds (displaySlot s i) 4)
include hm hslots hdisplay

/-- The copies of the display words from the `k+1`-st on, each read after the pushes before it. -/
theorem EnterBuilt.enterCopies {n : Nat} (h : EnterBuilt s level (k + 1) p) (hk : k + 1 + n ≤ enterLevel level) :
    ∃ q, enterCopies n (s.cell .ebp - BitVec.ofNat 32 (4 * k)) p = .ok q ∧ EnterBuilt s level (k + 1 + n) q := by
  induction n generalizing k p with
  | zero => exact ⟨p, rfl, h⟩
  | succ n ih =>
    obtain ⟨v, hread⟩ : ∃ v, WordAt (displaySlot s (k + 1)) v p.1 :=
      wordAt_of_inBounds ((h.inBounds_iff _ _).mpr (hdisplay (k + 1) (by omega) (by omega)))
    have hword : ∀ w, EnterWord s level (k + 1) w → w = v := by
      rintro w (_ | ⟨-, -, hw, hapart⟩ | ⟨-, hi⟩)
      · have hsame := h.stores.memRead_apart (w := .w32) hm h.cfg
          (List.forall_mem_map.mpr fun j hj => hapart j (by simpa [Nat.lt_succ_iff] using hj))
        exact Except.ok.inj (hw.symm.trans (hsame.symm.trans hread))
      · omega
    obtain ⟨q, hpush, hq⟩ := h.enterPush hm (by omega) (hslots _ (by omega)) hword
    obtain ⟨r, hcopies, hr⟩ := ih hq (by omega)
    refine ⟨r, ?_, by rwa [Nat.add_right_comm] at hr⟩
    rw [Machine.enterCopies, sub_words_sub_four, ← displaySlot, show p.1.memRead _ _ = _ from hread, ok_bind, hpush, ok_bind,
      hcopies]

theorem EnterBuilt.enterDisplay (h : EnterBuilt s level 1 p) :
    ∃ q, enterDisplay (enterLevel level) (s.cell .ebp) (s.cell .esp - 4) p = .ok q ∧
      EnterBuilt s level (enterLevel level + 1) q := by
  cases hl : enterLevel level with
  | zero => exact ⟨p, rfl, h⟩
  | succ n =>
    obtain ⟨q, hcopies, hq⟩ := EnterBuilt.enterCopies hm hslots hdisplay (k := 0) (n := n) h (by omega)
    rw [Nat.mul_zero, BitVec.sub_zero] at hcopies
    rw [Nat.zero_add, Nat.add_comm] at hq
    have hframe : ∀ w, EnterWord s level (n + 1) w → w = s.cell .esp - 4 := by
      rintro w (_ | ⟨-, hlt, -, -⟩ | -)
      · omega
      · rfl
    obtain ⟨r, hpush, hr⟩ := hq.enterPush hm hl.ge (hslots _ hl.ge) hframe
    exact ⟨r, by rw [Machine.enterDisplay, hcopies, ok_bind, hpush], hr⟩

/-- The pushes of `enter` succeed and build the frame. -/
theorem enterPushes_complete :
    ∃ p q, enterPush (s.cell .ebp) (s, s.cell .esp) = .ok p ∧
      enterDisplay (enterLevel level) (s.cell .ebp) (s.cell .esp - 4) p = .ok q ∧
      EnterBuilt s level (enterLevel level + 1) q := by
  have hstart : EnterBuilt s level 0 (s, s.cell .esp) := ⟨⟨by simp, .none⟩, rfl, fun _ hi => absurd hi (Nat.not_lt_zero _)⟩
  have hsaved : ∀ w, EnterWord s level 0 w → w = s.cell .ebp := by
    rintro w (_ | ⟨hpos, -⟩ | hpos)
    · rfl
    · cases hpos
    · cases hpos
  obtain ⟨p, hp, hfirst⟩ := hstart.enterPush hm (Nat.zero_le _) (hslots 0 (Nat.zero_le _)) hsaved
  obtain ⟨q, hq, hbuilt⟩ := hfirst.enterDisplay hm hslots hdisplay
  exact ⟨p, q, hp, hq, hbuilt⟩

end

end

/-- Settles O57: the frame is built slot by slot. -/
theorem enterResult : Obligations.EnterResult := by
  intro s size level hready hslots hdisplay
  obtain ⟨p, q, hp, hq, hbuilt⟩ := enterPushes_complete hready.1 hslots hdisplay
  obtain ⟨⟨hsp, -⟩, hmemOnly, hwords⟩ := hbuilt
  have hk : Keeps s q.1 := ((Keeps.refl s).enterPush hp).enterDisplay hq
  have hpc : q.1.pc = s.pc := by rw [hmemOnly]; rfl
  have hflags : q.1.flags = s.flags := by rw [hmemOnly]; rfl
  obtain ⟨hexec, hcont⟩ := plainOp_completes hready.2
    ((hk.setCell .ebp (s.cell .esp - 4)).setCell .esp (q.2 - size.setWidth 32)) hpc
  refine ⟨_, ?_, hcont, hflags, ?_, ?_, hwords _ (Nat.succ_pos _) _ .saved,
    fun hpos => hwords _ (Nat.lt_succ_self _) _ (.frame hpos rfl),
    fun i v hi hl hv hapart => hwords i (Nat.lt_succ_of_lt hl) v (.outer hi hl hv hapart)⟩
  · rw [exec, execEnter, hp, ok_bind, ← enterLevel, hq, ok_bind, pure_eq_ok, hexec]
  · simp
  · rw [State.cell_advance, State.cell_setCell, if_pos rfl, hsp, BitVec.sub_sub, ← BitVec.ofNat_toNat, ← BitVec.ofNat_add]

end Sys2Proof.Machine
end
